-- ==== Sys2Proof/Word.lean ====
section
/-! DEFINITION. The word types of the PEE (spec/00_scope.md R8, R10): registers are 32 bits, wire bytes are 8. -/

namespace Sys2Proof

/-- A register or a bus value: 32 bits, unsigned (R8 `REG_BITS`, R10). -/
abbrev Word := BitVec 32

/-- A byte: an unsigned 8-bit value (R10). -/
abbrev Byte := BitVec 8

/-- A block: one element of a Job, handed to the transport as one write (R15). -/
abbrev Block := List Byte

end Sys2Proof
end

