-- ==== Sys2Proof/Config.lean ====
section
/-! DEFINITION. The open parameters of the PEE (spec/00_scope.md R8, spec/20_memory.md R60): what a platform fixes and no
step changes. -/

namespace Sys2Proof

/-- The OPEN parameters. "A model takes every `OPEN` parameter as an argument" (R8); State carries this record, so a
statement about every state is a statement about every choice of them (log 2). -/
structure Config where
  /-- `PEE_BASE`: where the register window sits in the host's address space (R60, D2). -/
  peeBase : Nat
  /-- `PIX_CAP`: the capacity of PIXBUF, in pixels (R8, D42). -/
  pixCap : Nat
  /-- `OUT_CAP`: the capacity of OUTFIFO, in bytes (R8, D42). -/
  outCap : Nat
  deriving DecidableEq, Repr

/-- The bounds R8 sets on the capacities. The upper bound on `OUT_CAP` is DEDUCED (log 3): OUTLEVEL is a 32-bit
register (R8 `REG_BITS`) whose range is 0..`OUT_CAP` (R31). -/
abbrev Config.Valid (c : Config) : Prop :=
  1 ≤ c.pixCap ∧ c.pixCap ≤ 4294967295 ∧ 503 ≤ c.outCap ∧ c.outCap ≤ 4294967295

/-- The values `State.reset` carries: the recommended `PIX_CAP` of R8 and the `OUT_CAP` of spec/95_test_vectors.md.
DESIGN CHOICE, unsafe if a claim rests on them (log 2). -/
def Config.recommended : Config := ⟨0, 1023808, 4096⟩

end Sys2Proof
end

