-- ==== Sys2Proof/Machine/Wire.lean ====
section
/-! DEFINITION. The pure byte functions of the wire format: spec/40_serializer.md R130..R139, spec/41_checksum.md
R170..R172, spec/42_framer.md R190..R195. -/

namespace Sys2Proof.Wire

/-- `ceil(a / b)` (R12), for b ≥ 1. -/
def ceilDiv (a b : Nat) : Nat := (a + b - 1) / b

/-- `le32(v)` (R130): bits 7:0, 15:8, 23:16, 31:24. -/
def le32 (v : Word) : Block :=
  [v.extractLsb' 0 8, v.extractLsb' 8 8, v.extractLsb' 16 8, v.extractLsb' 24 8]

/-- The u32 whose little-endian bytes are b0 b1 b2 b3 (R68): what a receiver reads. -/
def ofLe32 (b0 b1 b2 b3 : Byte) : Word := b3 ++ b2 ++ b1 ++ b0

/-- The term of R131's sum for pixel i, before its shift: 1 where i < n and the pixel is ink. -/
def pixelTerm (p : List Bool) (i : Nat) : Nat := if p.getD i false then 1 else 0

/-- `byte(k)` of R131: pixel 8k + j in bit j, absent pixels 0. -/
def packByte (p : List Bool) (k : Nat) : Byte :=
  BitVec.ofNat 8 (((List.range 8).map fun j => pixelTerm p (8 * k + j) <<< j).sum)

/-- `pack(p)` (R131). -/
def pack (p : List Bool) : List Byte := (List.range (ceilDiv p.length 8)).map (packByte p)

/-- `startJob()` (R97, R133). -/
def startJob : Block := [0x1B, 0x73, 0x9A, 0x02, 0x00, 0x00]

/-- `printData(w, h, bm)` (R98, R134). The dimension check is the caller's. -/
def printData (w h : Word) (bm : List Byte) : Block := [0x1B, 0x44, 0x01, 0x02] ++ le32 w ++ le32 h ++ bm

/-- `formFeed()` (R99, R135). -/
def formFeed : Block := [0x1B, 0x45]

/-- `statusBlk()` (R99, R136). -/
def statusBlk : Block := [0x1B, 0x41]

/-- `endBlk()` (R99, R137). -/
def endBlk : Block := [0x1B, 0x51]

/-- `body(w, h, bm)`, the JobBody, in its fixed order (R138). -/
def body (w h : Word) (bm : List Byte) : List Byte :=
  startJob ++ printData w h bm ++ formFeed ++ statusBlk ++ endBlk

/-- The four fixed bytes of a header: preamble, flags, magic (R96). Emitted verbatim, never interpreted (R105). -/
def headerPrefix : Block := [0xFF, 0xF0, 0x12, 0x34]

/-- The sum of a byte sequence as unsigned values. -/
def byteSum (bs : List Byte) : Nat := (bs.map BitVec.toNat).sum

/-- `checksum(L)` (R170): the sum of the eight bytes before it, reduced mod 256 once. -/
def checksum (L : Word) : Byte := BitVec.ofNat 8 (byteSum (headerPrefix ++ le32 L))

/-- `header(L)` (R96, R172). -/
def header (L : Word) : Block := headerPrefix ++ le32 L ++ [checksum L]

/-- `CHUNK_SIZE` (R190). -/
def chunkSize : Nat := 500

/-- `MAX_CHUNKS` (R8): chunk indices 0..255. -/
def maxChunks : Nat := 256

/-- `TRAILER` (R8, R194). -/
def trailer : Block := [0x12, 0x34]

/-- `nchunks(L)` (R191). -/
def nchunks (L : Nat) : Nat := if L = 0 then 1 else ceilDiv L chunkSize

/-- `payload(B, i)` (R192): the slice [500 i, min(500 (i + 1), len B)). -/
def payload (B : List Byte) (i : Nat) : List Byte := (B.drop (i * chunkSize)).take chunkSize

/-- `chunk(B, i)` (R195): the index byte (R193), the payload, the trailer on the last chunk only (R194). -/
def chunk (B : List Byte) (i : Nat) : Block :=
  [BitVec.ofNat 8 i] ++ payload B i ++ (if i + 1 = nchunks B.length then trailer else [])

/-- `chunks(B)` (R195). -/
def chunks (B : List Byte) : List Block := (List.range (nchunks B.length)).map (chunk B)

end Sys2Proof.Wire
end

