-- ==== Sys2Proof/Machine/Operands.lean ====
section
/-! DEFINITION. What a command and a port read out of a word or a buffer: the fields of the CMD, PIXIN and OUTDATA words
(spec/30_encoding.md R90, R92, R94, R95) and the checks the commands make on their operands (spec/40_serializer.md R143,
R144, spec/42_framer.md R196). No command has an operand field (R90): every operand is a register or a buffer. -/

namespace Sys2Proof.Machine

/-- CMD bits 7:0, OPCODE (R90). -/
def opcodeOf (w : Word) : Byte := w.extractLsb' 0 8

/-- CMD bits 31:8, RSVD (R90). -/
def rsvdOf (w : Word) : BitVec 24 := w.extractLsb' 8 24

/-- The pixel of a PIXIN word: bit 0; bits 31:1 are ignored (R94). -/
def pixelOf (v : Word) : Bool := v.getLsbD 0

/-- The OUTDATA word of a removed byte: DATA 7:0, LAST 8, VALID 9, the rest 0 (R95). -/
def outDataWord (b : Byte) (last : Bool) : Word :=
  (1#32 <<< 9) ||| (BitVec.ofNat 32 last.toNat <<< 8) ||| b.setWidth 32

/-- `dimOK(w, h, N)` (R143): w × h = 8 × N, the product exact (D28). -/
def dimOK (w h : Word) (n : Nat) : Bool := w.toNat * h.toNat == 8 * n

/-- `MAX_BODY` (R8): the largest length the header can carry, 2^32 − 1. -/
def maxBody : Nat := 4294967295

/-- `lenOK(N)` (R144): the body length 24 + N fits the header's 32-bit field. -/
def lenOK (n : Nat) : Bool := 24 + n ≤ maxBody

/-- `framable(L)` (R196): every chunk index fits one byte. -/
def framable (L : Nat) : Bool := Wire.nchunks L ≤ Wire.maxChunks

end Sys2Proof.Machine
end

