-- ==== Sys2Proof/Syntax.lean ====
section
/-! DEFINITION. The syntax: one constructor per row of spec/opcode_table.json. -/

namespace Sys2Proof

/-- The seven commands and the illegal word of the CMD register (spec/30_encoding.md R91, R92), and the eight wire
blocks of R96..R99 and R101. The WIRE rows are output formats, not commands (R3); log 6 says what running one means. -/
inductive Instr where
  /-- NOP, CMD word 0x00000000 (R222). -/
  | nop
  /-- CLEAR, CMD word 0x00000001 (R223). -/
  | clear
  /-- PACK, CMD word 0x00000002, the bit serializer (R141). -/
  | pack
  /-- BUILD, CMD word 0x00000003, the command encoder (R142). -/
  | build
  /-- HEADER, CMD word 0x00000004, the checksum engine (R173). -/
  | header
  /-- FRAME, CMD word 0x00000005, the packet framer (R197). -/
  | frame
  /-- JOB, CMD word 0x00000006, the job sequencer (R224). -/
  | job
  /-- Any other CMD word: bits 31:8 and bits 7:0 (R225). -/
  | illegal (rsvd : BitVec 24) (opcode : Byte)
  /-- WIRE.HEADER: the 9-byte header of a body of length bodyLen (R96, R172). -/
  | wireHeader (bodyLen : Word)
  /-- WIRE.STARTJOB (R97, R133). -/
  | wireStartJob
  /-- WIRE.PRINTDATA (R98, R134). -/
  | wirePrintData (width height : Word) (bitmap : List Byte)
  /-- WIRE.FORMFEED (R99, R135). -/
  | wireFormFeed
  /-- WIRE.STATUS (R99, R136). -/
  | wireStatus
  /-- WIRE.END (R99, R137). -/
  | wireEnd
  /-- WIRE.CHUNK: a chunk that is not the last of its body (R101, R195). -/
  | wireChunk (index : Byte) (payload : List Byte)
  /-- WIRE.CHUNK_LAST: the last chunk, which the trailer follows (R101, R194, R195). -/
  | wireChunkLast (index : Byte) (payload : List Byte)
  deriving DecidableEq, Repr

end Sys2Proof
end

