-- ==== Sys2Proof/WellFormed.lean ====
section
/-! DEFINITION. Which terms of `Instr` the spec's encodings admit. -/

namespace Sys2Proof

/-- The bounds each row's encoding sets on its fields: an illegal word is no legal one (R92); PrintData's area is its
bitmap's (R143) and its body fits the length field (R144); a chunk that is not last carries 500 bytes and has an
index below the last one's (R192, R196); a last chunk carries at most 500, and 0 only as chunk 0 (R192). -/
def Instr.wellFormed : Instr → Bool
  | .nop => true
  | .clear => true
  | .pack => true
  | .build => true
  | .header => true
  | .frame => true
  | .job => true
  | .illegal rsvd opcode => rsvd ≠ 0 || decide (6 < opcode.toNat)
  | .wireHeader _ => true
  | .wireStartJob => true
  | .wirePrintData width height bitmap =>
      Machine.dimOK width height bitmap.length && Machine.lenOK bitmap.length
  | .wireFormFeed => true
  | .wireStatus => true
  | .wireEnd => true
  | .wireChunk index payload => payload.length == Wire.chunkSize && decide (index.toNat < 255)
  | .wireChunkLast index payload =>
      decide (payload.length ≤ Wire.chunkSize) && (payload ≠ [] || index == 0)

end Sys2Proof
end

