-- ==== Sys2Proof/Decode.lean ====
section
/-! DEFINITION. Decoding and encoding: the command word (spec/30_encoding.md R90..R92) and the wire blocks (R96..R101)
as a receiver finds them (R103). -/

namespace Sys2Proof

/-- Why a byte sequence is no encoding of the format asked for. -/
inductive DecodeError where
  /-- The sequence ends before the encoding does. -/
  | truncated
  /-- A header does not begin FF F0 12 34 (R96). -/
  | headerPrefix
  /-- A header's ninth byte is not the checksum of the first eight (R96, R170). -/
  | checksum
  /-- A command block does not begin with 0x1B (R97..R99). -/
  | escape
  /-- No command block has this second byte (R105). -/
  | commandByte
  /-- A constant byte of StartJob or PrintData is another (R97, R98). -/
  | constant
  /-- PrintData's area is no whole number of bytes (R103, R143). -/
  | area
  /-- PrintData's body would not fit the length field (R144). -/
  | bodyLength
  /-- A body of this length needs an index above 255 (R196). -/
  | notFramable
  /-- A body of this length has no chunk with this index (R101). -/
  | chunkIndex
  /-- The last chunk's payload is not followed by 12 34 (R194). -/
  | trailer
  deriving DecidableEq, Repr

/-- Where a byte sequence stands, which says what it encodes: the CMD register, the head of a Job, a JobBody, or a
chunk of a body of a known length. "A chunk's length follows from L in the header and its index" (R103, log 7). -/
inductive Format where
  /-- A CMD write, as the four bytes of its word in the bus's little-endian lanes (R65, R90). -/
  | cmd
  /-- The first block of a Job (R102). -/
  | jobHeader
  /-- A command block inside a JobBody (R100). -/
  | command
  /-- A chunk of a body of length bodyLen (R101). -/
  | chunk (bodyLen : Nat)
  deriving DecidableEq, Repr

/-- Decoding of a command word, at the execute step (R91, R92, R221). Total: a word that is not legal is the illegal
instruction, never another command. -/
def decodeCmd (w : Word) : Instr :=
  if Machine.rsvdOf w = 0 then
    match (Machine.opcodeOf w).toNat with
    | 0 => .nop
    | 1 => .clear
    | 2 => .pack
    | 3 => .build
    | 4 => .header
    | 5 => .frame
    | 6 => .job
    | _ => .illegal 0 (Machine.opcodeOf w)
  else .illegal (Machine.rsvdOf w) (Machine.opcodeOf w)

/-- What a decoder answers: the instruction and the bytes after its encoding, or the reason there is none. -/
abbrev Decoded := Except DecodeError (Instr × List Byte)

/-- A command word from its four bytes. -/
def decodeCmdBytes : List Byte → Decoded
  | b0 :: b1 :: b2 :: b3 :: rest => .ok (decodeCmd (Wire.ofLe32 b0 b1 b2 b3), rest)
  | _ => .error .truncated

/-- A header (R96): its length field, the fixed bytes and the checksum being right. -/
def decodeHeader : List Byte → Decoded
  | p :: f :: m0 :: m1 :: l0 :: l1 :: l2 :: l3 :: c :: rest =>
    if [p, f, m0, m1] = Wire.headerPrefix then
      if c = Wire.checksum (Wire.ofLe32 l0 l1 l2 l3) then .ok (.wireHeader (Wire.ofLe32 l0 l1 l2 l3), rest)
      else .error .checksum
    else .error .headerPrefix
  | _ => .error .truncated

/-- StartJob after 1B 73 (R97). -/
def decodeStartJob : List Byte → Decoded
  | a :: b :: c :: d :: rest =>
    if [a, b, c, d] = [0x9A, 0x02, 0x00, 0x00] then .ok (.wireStartJob, rest) else .error .constant
  | _ => .error .truncated

/-- PrintData's bitmap: N = w × h / 8 bytes (R103). -/
def decodeBitmap (w h : Word) (bs : List Byte) : Decoded :=
  if w.toNat * h.toNat % 8 = 0 then
    if Machine.lenOK (w.toNat * h.toNat / 8) then
      if w.toNat * h.toNat / 8 ≤ bs.length then
        .ok (.wirePrintData w h (bs.take (w.toNat * h.toNat / 8)), bs.drop (w.toNat * h.toNat / 8))
      else .error .truncated
    else .error .bodyLength
  else .error .area

/-- PrintData after 1B 44 (R98). -/
def decodePrintData : List Byte → Decoded
  | c0 :: c1 :: w0 :: w1 :: w2 :: w3 :: h0 :: h1 :: h2 :: h3 :: rest =>
    if [c0, c1] = [0x01, 0x02] then decodeBitmap (Wire.ofLe32 w0 w1 w2 w3) (Wire.ofLe32 h0 h1 h2 h3) rest
    else .error .constant
  | _ => .error .truncated

/-- A command block, found "from its second byte after 0x1B" (R103). -/
def decodeCommand : List Byte → Decoded
  | e :: c :: rest =>
    if e = 0x1B then
      if c = 0x73 then decodeStartJob rest
      else if c = 0x44 then decodePrintData rest
      else if c = 0x45 then .ok (.wireFormFeed, rest)
      else if c = 0x41 then .ok (.wireStatus, rest)
      else if c = 0x51 then .ok (.wireEnd, rest)
      else .error .commandByte
    else .error .escape
  | _ => .error .truncated

/-- The payload of a chunk that is not last: 500 bytes (R192). -/
def decodeFullChunk (index : Byte) (bs : List Byte) : Decoded :=
  if Wire.chunkSize ≤ bs.length then .ok (.wireChunk index (bs.take Wire.chunkSize), bs.drop Wire.chunkSize)
  else .error .truncated

/-- The payload of the last chunk, p bytes, and the trailer, recognised by position and not by value (R103). -/
def decodeLastChunk (index : Byte) (p : Nat) (bs : List Byte) : Decoded :=
  if p + 2 ≤ bs.length then
    if (bs.drop p).take 2 = Wire.trailer then .ok (.wireChunkLast index (bs.take p), bs.drop (p + 2))
    else .error .trailer
  else .error .truncated

/-- A chunk of a body of length L (R101, R103). -/
def decodeChunk (L : Nat) : List Byte → Decoded
  | index :: bs =>
    if Machine.framable L then
      if index.toNat + 1 < Wire.nchunks L then decodeFullChunk index bs
      else if index.toNat + 1 = Wire.nchunks L then
        decodeLastChunk index (L - index.toNat * Wire.chunkSize) bs
      else .error .chunkIndex
    else .error .notFramable
  | [] => .error .truncated

/-- The decoder: total on any bytes, in each of the four places bytes stand. -/
def decode : Format → List Byte → Decoded
  | .cmd, bs => decodeCmdBytes bs
  | .jobHeader, bs => decodeHeader bs
  | .command, bs => decodeCommand bs
  | .chunk L, bs => decodeChunk L bs

/-- The next n command blocks of a JobBody, in order (R100, R103). -/
def decodeCommands : Nat → List Byte → Except DecodeError (List Instr × List Byte)
  | 0, bs => .ok ([], bs)
  | n + 1, bs =>
    match decodeCommand bs with
    | .error e => .error e
    | .ok (i, rest) =>
      match decodeCommands n rest with
      | .error e => .error e
      | .ok (is, rest') => .ok (i :: is, rest')

/-- The encoder: the bytes of each row, from the encoding tables R90, R91, R96..R99 and R101. A command word stands
in its little-endian lanes (R65, log 11). -/
def encode : Instr → List Byte
  | .nop => Wire.le32 0x00000000
  | .clear => Wire.le32 0x00000001
  | .pack => Wire.le32 0x00000002
  | .build => Wire.le32 0x00000003
  | .header => Wire.le32 0x00000004
  | .frame => Wire.le32 0x00000005
  | .job => Wire.le32 0x00000006
  | .illegal rsvd opcode => Wire.le32 (rsvd ++ opcode)
  | .wireHeader bodyLen => Wire.header bodyLen
  | .wireStartJob => Wire.startJob
  | .wirePrintData width height bitmap => Wire.printData width height bitmap
  | .wireFormFeed => Wire.formFeed
  | .wireStatus => Wire.statusBlk
  | .wireEnd => Wire.endBlk
  | .wireChunk index payload => [index] ++ payload
  | .wireChunkLast index payload => [index] ++ payload ++ Wire.trailer

/-- The places an instruction's encoding may stand in: a chunk stands in every body whose length and index make it
the chunk it is (R101). -/
def Instr.standsIn : Instr → Format → Bool
  | .nop, f => f == .cmd
  | .clear, f => f == .cmd
  | .pack, f => f == .cmd
  | .build, f => f == .cmd
  | .header, f => f == .cmd
  | .frame, f => f == .cmd
  | .job, f => f == .cmd
  | .illegal _ _, f => f == .cmd
  | .wireHeader _, f => f == .jobHeader
  | .wireStartJob, f => f == .command
  | .wirePrintData _ _ _, f => f == .command
  | .wireFormFeed, f => f == .command
  | .wireStatus, f => f == .command
  | .wireEnd, f => f == .command
  | .wireChunk index _, f =>
    match f with
    | .chunk L => Machine.framable L && decide (index.toNat + 1 < Wire.nchunks L)
    | .cmd => false
    | .jobHeader => false
    | .command => false
  | .wireChunkLast index payload, f => f == .chunk (index.toNat * Wire.chunkSize + payload.length)

/-- The bytes of a table word of nbits bits, the first byte in its lowest bits. -/
def tableBytes (nbits w : Nat) : List Byte :=
  (List.range (nbits / 8)).map fun k => BitVec.ofNat 8 (w >>> (8 * k))

/-- The place a table row's bytes stand in: a CMD row has 32 bits; a wire row is told by its first bytes, and a chunk
by its length (log 11). -/
def tableFormat (nbits : Nat) (bs : List Byte) : Format :=
  if nbits = 32 then .cmd
  else if bs.take 4 = Wire.headerPrefix && bs.length = 9 then .jobHeader
  else if bs.headD 0 = 0x1B && (bs.getD 1 0 ∈ ([0x73, 0x44, 0x45, 0x41, 0x51] : List Byte)) then .command
  else if bs.length = Wire.chunkSize + 1 then .chunk (((bs.headD 0).toNat + 2) * Wire.chunkSize)
  else .chunk ((bs.headD 0).toNat * Wire.chunkSize + (bs.length - 3))

/-- The instruction the decoder reads from a row of spec/opcode_table.json whose nbits bits are w. -/
def decodeTableWord (nbits w : Nat) : Option Instr :=
  match decode (tableFormat nbits (tableBytes nbits w)) (tableBytes nbits w) with
  | .ok (i, []) => some i
  | .ok (_, _ :: _) => none
  | .error _ => none

end Sys2Proof
end

