-- ==== Sys2Proof/Machine/State.lean ====
section
/-! DEFINITION. The state (spec/10_state.md), the host's program notation (spec/30_encoding.md R106..R108), the reasons a
step can stop, and reset (R42, R290). -/

namespace Sys2Proof.Machine

/-- Whose step a turn is (R14). The host's two kinds of step are told apart: the next access of its program, and the reset
input, which it may assert at any time (R290, log 15). -/
inductive Agent where
  /-- The host, at its program's next access. -/
  | host
  /-- The engine. -/
  | engine
  /-- The host, asserting the reset input: enabled in every state, inside a loop and after the last statement too. -/
  | reset
  deriving DecidableEq, Repr

/-- One host bus access: an address in the host's map, a size in bytes, and for a write its value (R61). -/
inductive BusAccess where
  | read (addr size : Nat)
  | write (addr size : Nat) (value : Word)
  deriving DecidableEq, Repr

/-- What a host program has still to do. The base statements are bus accesses (R106); a pseudo-statement with a loop is
held as the point its loop has reached (R107), so that each host step makes exactly one access (R14). -/
inductive HostStmt where
  /-- `wr` or `rd`: one bus access (R106). A read's value is the statement's result. -/
  | bus (a : BusAccess)
  /-- `wait`: read STATUS until BUSY is 0 (R107). -/
  | wait
  /-- `drain`: read OUTDATA and log its byte until VALID is 0 (R107). -/
  | drain
  /-- The loop of `run`, at its `rd OUTDATA` (R107). -/
  | runPop
  /-- The loop of `run`, at its `rd STATUS` (R107). -/
  | runStatus
  /-- The loop of `run`, at its `rd OUTLEVEL` (R107). -/
  | runLevel
  /-- Assert the reset input, a step of the host agent (R290). R106 and R107 name no statement for it, so this one is the
  model's own (DESIGN CHOICE, log 15); reset at any other time is a turn of its own, `Agent.reset`. -/
  | reset
  deriving DecidableEq, Repr

/-- Where a byte of OUTDATA stands in its block, as far as the host's record goes (R95, R107, log 8). -/
inductive BlockPlace where
  /-- The first byte of a block: "the byte after a LAST byte, or the first byte read after reset or CLEAR" (R95). -/
  | first
  /-- A later byte of a block whose earlier bytes are all in the record. -/
  | next
  /-- A later byte of a block of which a plain `rd` has taken a byte, so that the record misses one. -/
  | gap
  deriving DecidableEq, Repr

/-- The place of the byte read after one at place p: a LAST byte is followed by a first byte (R95); logged tells whether the
byte at p joined the record. -/
def BlockPlace.after (logged last : Bool) (p : BlockPlace) : BlockPlace :=
  if last then .first else if logged = true ∧ p ≠ .gap then .next else .gap

/-- One entry of the host's record: a byte read from OUTDATA, its place in its block, and its LAST bit (R95, R107). -/
structure LogByte where
  byte : Byte
  place : BlockPlace
  last : Bool
  deriving DecidableEq, Repr

/-- The error kinds (R251). -/
inductive ErrorKind where
  /-- Code 1. Never raised by the PEE (R268). -/
  | invalidGeometry
  /-- Code 2, raised by BUILD and JOB. -/
  | dimensionMismatch
  /-- Code 3, raised by BUILD and JOB. -/
  | lengthOverflow
  /-- Code 4, raised by FRAME and JOB. -/
  | tooManyChunks
  /-- Code 5, raised by any accepted illegal CMD word. -/
  | illegalCommand
  /-- Code 6, raised by a PIXIN write. -/
  | pixelOverflow
  deriving DecidableEq, Repr

/-- The machine: the PEE's registers, buffers and queues (R20), its configuration, and the host agent with the
interleaving of the two agents. -/
structure State where
  /-- The open parameters, "fixed for a model instance" (R20, log 2). -/
  cfg : Config
  /-- STATUS.DONE (R45). -/
  done : Bool
  /-- STATUS.ERR (R46). -/
  err : Bool
  /-- STATUS.OVR (R47). -/
  ovr : Bool
  /-- STATUS.ERRCODE (R48). -/
  errcode : BitVec 4
  /-- STATUS.ERROP (R49). -/
  errop : Byte
  /-- WIDTH (R24). -/
  width : Word
  /-- HEIGHT (R25). -/
  height : Word
  /-- BODYLEN (R26). -/
  bodylen : Word
  /-- CSUM bits 7:0 (R27). -/
  csum : Byte
  /-- CHUNKCNT bits 8:0 (R28, R93). -/
  chunkcnt : BitVec 9
  /-- PIXBUF, row-major, ink = true (R36). -/
  pixbuf : List Bool
  /-- BMPBUF, the PackedBitmap (R37). -/
  bmpbuf : List Byte
  /-- BODYBUF, the JobBody (R38). -/
  bodybuf : List Byte
  /-- OUTFIFO, head block first, each block as its unread bytes (R39). -/
  outfifo : List Block
  /-- The place in its block of the byte read next from OUTDATA: the history R95 names, since reset or CLEAR, and whether the
  record holds what was read of the block. No register shows it (log 8). -/
  readPlace : BlockPlace
  /-- PENDING (R40). -/
  pending : Option Word
  /-- EMIT (R41). -/
  emit : List Block
  /-- Whose turn comes next, as far as the interleaving is fixed (R70, log 1). -/
  sched : List Agent
  /-- The host program's remaining statements (R106, log 4). -/
  prog : List HostStmt
  /-- The values of the host's `rd` statements, oldest first (R106, log 8). -/
  results : List Word
  /-- The host's record of the output, oldest first (R107, log 8). -/
  log : List LogByte
  deriving DecidableEq, Repr

/-- The reasons a step ends in a fault: none. Every error the spec names is recorded in STATUS and the machine goes on
(R250, R252), so no step of the PEE stops it (log 10). -/
inductive Fault where
  deriving DecidableEq, Repr

/-- The reasons a step has no meaning. -/
inductive Refusal where
  /-- Raised by exec for an instruction that has no meaning yet. Safe: nothing can be proved of its next state. -/
  | notModelled (mnemonic : String)
  /-- Raised by a host step whose bus access R61 does not admit: a size other than 4 bytes, a misaligned offset, or an
  offset outside the window. Safe: "the run has no meaning after it" (log 9). -/
  | accessNotAdmitted (addr size : Nat)
  deriving DecidableEq, Repr

/-- What a step answers. -/
abbrev Result := Host.Outcome State Fault Refusal

/-- The machine right after reset (R42, R290), with no host program placed. The parameters are DESIGN CHOICE (log 2). -/
def State.reset : State where
  cfg := Config.recommended
  done := false
  err := false
  ovr := false
  errcode := 0
  errop := 0
  width := 0
  height := 0
  bodylen := 0
  csum := 0
  chunkcnt := 0
  pixbuf := []
  bmpbuf := []
  bodybuf := []
  outfifo := []
  readPlace := .first
  pending := none
  emit := []
  sched := []
  prog := []
  results := []
  log := []

end Sys2Proof.Machine
end

