-- ==== Sys2Proof/Machine/Flags.lean ====
section
/-! DEFINITION. The fields of STATUS (spec/10_state.md R23, R44..R49): how they are read and set, but for the error action,
which is in Ops.lean. -/

namespace Sys2Proof.Machine

/-- STATUS.BUSY, computed from PENDING and EMIT (R44). -/
def State.busy (s : State) : Bool := s.pending.isSome || !s.emit.isEmpty

/-- The STATUS word (R23, R62). Bits 31:16 read 0. -/
def State.statusWord (s : State) : Word :=
  (s.errop.setWidth 32 <<< 8) ||| (s.errcode.setWidth 32 <<< 4) ||| (BitVec.ofNat 32 s.ovr.toNat <<< 3)
    ||| (BitVec.ofNat 32 s.err.toNat <<< 2) ||| (BitVec.ofNat 32 s.done.toNat <<< 1) ||| BitVec.ofNat 32 s.busy.toNat

/-- OVR <- 1: a host write was ignored because BUSY was 1 (R47, R67). -/
def State.setOvr (s : State) : State := { s with ovr := true }

/-- The end of an execute step that raised no error: DONE <- 1 if EMIT is empty (R221, R227). -/
def State.complete (s : State) : State := { s with done := s.done || s.emit.isEmpty }

/-- The code of an error kind (R251). -/
def ErrorKind.code : ErrorKind → BitVec 4
  | .invalidGeometry => 1
  | .dimensionMismatch => 2
  | .lengthOverflow => 3
  | .tooManyChunks => 4
  | .illegalCommand => 5
  | .pixelOverflow => 6

end Sys2Proof.Machine
end

