-- ==== Sys2Proof/Machine/Ops.lean ====
section
/-! DEFINITION. The named operations over the state: the error action and the return from it (spec/60_exceptions.md R252,
R260), the output FIFO (spec/10_state.md R39, spec/43_control.md R226, R228), and the writes to the buffers. -/

namespace Sys2Proof.Machine

/-! ### The error action and the return from it -/

/-- `raise E(op)`, the error action (R252): the first error's code and opcode are kept, DONE is cleared, and the command
ends with nothing of it emitted. -/
def State.raise (e : ErrorKind) (op : Byte) (s : State) : State :=
  { s with
    err := true
    errcode := if s.err then s.errcode else e.code
    errop := if s.err then s.errop else op
    done := false
    pending := none
    emit := [] }

/-- The return from an error, and reset: every piece of the PEE's state at its R42 value (R223, R260, R290), and the byte
read next from OUTDATA a first byte (R95). The configuration and the host are no state of the PEE (R20, R14) and stay. -/
def State.clear (s : State) : State :=
  { s with
    done := false
    err := false
    ovr := false
    errcode := 0
    errop := 0
    width := 0
    height := 0
    bodylen := 0
    csum := 0
    chunkcnt := 0
    pixbuf := []
    bmpbuf := []
    bodybuf := []
    outfifo := []
    readPlace := .first
    pending := none
    emit := [] }

/-! ### The output FIFO -/

/-- OUTLEVEL: the unread bytes in OUTFIFO (R31). -/
def State.outLevel (s : State) : Nat := (s.outfifo.map List.length).sum

/-- OUTBLKS: the blocks of OUTFIFO with an unread byte (R32). -/
def State.outBlks (s : State) : Nat := s.outfifo.countP fun b => !b.isEmpty

/-- Whether a block fits: `len(b) ≤ OUT_CAP − OUTLEVEL` (R226). -/
def State.fits (s : State) (b : Block) : Bool := s.outLevel + b.length ≤ s.cfg.outCap

/-- The first unread byte of a FIFO, whether it ends its block, and the FIFO without it (R228). A block with no byte
left is passed over; no run reaches one (R43, log 12). -/
def popFifo : List Block → Option (Byte × Bool × List Block)
  | [] => none
  | [] :: rest => popFifo rest
  | [b] :: rest => some (b, true, rest)
  | (b :: c :: bs) :: rest => some (b, false, (c :: bs) :: rest)

/-- `emit(blocks)`: EMIT is set to the list (R13, R41). -/
def State.setEmit (bs : List Block) (s : State) : State := { s with emit := bs }

/-- The effect of an emission step: the head block enters OUTFIFO whole, and with the last one DONE <- 1 (R226). -/
def State.emitHead (b : Block) (rest : List Block) (s : State) : State :=
  { s with outfifo := s.outfifo ++ [b], emit := rest, done := s.done || rest.isEmpty }

/-- The emission step (R226). Where the engine has none, idle (R229) or held, nothing changes. -/
def State.emission (s : State) : State :=
  match s.pending, s.emit with
  | none, b :: rest => if s.fits b then s.emitHead b rest else s
  | none, [] => s
  | some _, _ => s

/-- The engine's emission step, if the block it emits is b; otherwise nothing changes (R226, log 6). -/
def State.emissionOf (b : Block) (s : State) : State := if s.emit.head? = some b then s.emission else s

/-- Whether the engine has a step: an execute step (R221) or an emission step (R226). -/
def State.engineEnabled (s : State) : Bool :=
  match s.pending, s.emit with
  | some _, _ => true
  | none, b :: _ => s.fits b
  | none, [] => false

/-! ### The buffers and the command port -/

/-- A command word is accepted into PENDING; DONE <- 0 (R220). -/
def State.accept (w : Word) (s : State) : State := { s with pending := some w, done := false }

/-- PIXBUF <- PIXBUF ++ [pixel] (R140). -/
def State.appendPixel (p : Bool) (s : State) : State := { s with pixbuf := s.pixbuf ++ [p] }

/-- The command encoder serializes a command block: its bytes join the JobBody being built (R138, log 6). -/
def State.appendBody (b : Block) (s : State) : State := { s with bodybuf := s.bodybuf ++ b }

/-- BMPBUF <- bm (R141). -/
def State.setBmpbuf (bm : List Byte) (s : State) : State := { s with bmpbuf := bm }

/-- BODYBUF <- B and BODYLEN <- len(B), which lenOK has bounded (R142). -/
def State.setBody (B : List Byte) (s : State) : State :=
  { s with bodybuf := B, bodylen := BitVec.ofNat 32 B.length }

/-- CSUM <- c (R173). -/
def State.setCsum (c : Byte) (s : State) : State := { s with csum := c }

/-- CHUNKCNT <- n, which framable has bounded (R197). -/
def State.setChunkcnt (n : Nat) (s : State) : State := { s with chunkcnt := BitVec.ofNat 9 n }

end Sys2Proof.Machine
end

