-- ==== Sys2Proof/Machine/Checksum.lean ====
section
/-! DEFINITION. The checksum engine's command (spec/41_checksum.md): HEADER R173. -/

namespace Sys2Proof.Machine

/-- HEADER (R173): CSUM <- checksum(BODYLEN), and one 9-byte block to emit. -/
def execHeader (s : State) : Result :=
  .next ((s.setCsum (Wire.checksum s.bodylen)).setEmit [Wire.header s.bodylen]).complete

end Sys2Proof.Machine
end

