-- ==== Sys2Proof/Machine/Control.lean ====
section
/-! DEFINITION. The control commands (spec/43_control.md): NOP R222, CLEAR R223, JOB R224 and the illegal word R225. Each
is the body of the execute step (R221), after PENDING has been emptied. -/

namespace Sys2Proof.Machine

/-- NOP (R222): nothing, in any state; not even DONE (R45). -/
def execNop (s : State) : Result := .next s

/-- CLEAR (R223): every piece of state at its R42 value; DONE stays 0 (R227). -/
def execClear (s : State) : Result := .next s.clear

/-- JOB past its checks (R224): B is the body of the bitmap bm. -/
def jobEffect (bm B : List Byte) (s : State) : State :=
  ((((s.setBmpbuf bm).setBody B).setCsum (Wire.checksum (BitVec.ofNat 32 B.length))).setChunkcnt
    (Wire.nchunks B.length)).setEmit (Wire.header (BitVec.ofNat 32 B.length) :: Wire.chunks B)

/-- JOB (R224): the bit serializer, the command encoder, the checksum engine and the framer in pipeline order, with every
check before the first write (R255). -/
def execJob (s : State) : Result :=
  if dimOK s.width s.height (Wire.pack s.pixbuf).length then
    if lenOK (Wire.pack s.pixbuf).length then
      if framable (Wire.body s.width s.height (Wire.pack s.pixbuf)).length then
        .next (jobEffect (Wire.pack s.pixbuf) (Wire.body s.width s.height (Wire.pack s.pixbuf)) s).complete
      else .next (s.raise .tooManyChunks 0x06)
    else .next (s.raise .lengthOverflow 0x06)
  else .next (s.raise .dimensionMismatch 0x06)

/-- An illegal command word (R225): IllegalCommand with ERROP = w[7:0], whatever bits 31:8 are. -/
def execIllegal (_rsvd : BitVec 24) (opcode : Byte) (s : State) : Result :=
  .next (s.raise .illegalCommand opcode)

end Sys2Proof.Machine
end

