-- ==== Sys2Proof/Machine/Framer.lean ====
section
/-! DEFINITION. The packet framer's command (spec/42_framer.md): FRAME R197. -/

namespace Sys2Proof.Machine

/-- FRAME (R197): the chunk limit before anything is emitted, then CHUNKCNT and the chunks of BODYBUF. -/
def execFrame (s : State) : Result :=
  if framable s.bodybuf.length then
    .next ((s.setChunkcnt (Wire.nchunks s.bodybuf.length)).setEmit (Wire.chunks s.bodybuf)).complete
  else .next (s.raise .tooManyChunks 0x05)

end Sys2Proof.Machine
end

