-- ==== Sys2Proof/Machine/Serializer.lean ====
section
/-! DEFINITION. The bit serializer and the command encoder (spec/40_serializer.md): PACK R141, BUILD R142. -/

namespace Sys2Proof.Machine

/-- PACK (R141): BMPBUF <- pack(PIXBUF). PIXBUF stays (D27). -/
def execPack (s : State) : Result := .next (s.setBmpbuf (Wire.pack s.pixbuf)).complete

/-- BUILD (R142): DimensionMismatch first, then LengthOverflow, then BODYBUF and BODYLEN. -/
def execBuild (s : State) : Result :=
  if dimOK s.width s.height s.bmpbuf.length then
    if lenOK s.bmpbuf.length then .next (s.setBody (Wire.body s.width s.height s.bmpbuf)).complete
    else .next (s.raise .lengthOverflow 0x03)
  else .next (s.raise .dimensionMismatch 0x03)

end Sys2Proof.Machine
end

