-- ==== Sys2Proof/Machine/WireBlocks.lean ====
section
/-! DEFINITION. The WIRE rows of the opcode table (spec/30_encoding.md R96..R101). They are output formats, not commands
(R3); running one is the part of an engine step that puts the block where the spec puts it (log 6): the header and the
chunks enter OUTFIFO by an emission step (R226), the five command blocks join the JobBody (R138). -/

namespace Sys2Proof.Machine

/-- WIRE.HEADER (R172): the emission step of the block header(L). -/
def execWireHeader (bodyLen : Word) (s : State) : Result := .next (s.emissionOf (Wire.header bodyLen))

/-- WIRE.STARTJOB (R133): the encoder serializes StartJob. -/
def execWireStartJob (s : State) : Result := .next (s.appendBody Wire.startJob)

/-- WIRE.PRINTDATA (R134): the encoder serializes PrintData. "The function itself does not check" the dimensions. -/
def execWirePrintData (width height : Word) (bitmap : List Byte) (s : State) : Result :=
  .next (s.appendBody (Wire.printData width height bitmap))

/-- WIRE.FORMFEED (R135): the encoder serializes FormFeed. -/
def execWireFormFeed (s : State) : Result := .next (s.appendBody Wire.formFeed)

/-- WIRE.STATUS (R136): the encoder serializes Status. -/
def execWireStatus (s : State) : Result := .next (s.appendBody Wire.statusBlk)

/-- WIRE.END (R137): the encoder serializes End. -/
def execWireEnd (s : State) : Result := .next (s.appendBody Wire.endBlk)

/-- WIRE.CHUNK (R195): the emission step of a chunk without the trailer. -/
def execWireChunk (index : Byte) (payload : List Byte) (s : State) : Result :=
  .next (s.emissionOf ([index] ++ payload))

/-- WIRE.CHUNK_LAST (R195): the emission step of a chunk with the trailer. -/
def execWireChunkLast (index : Byte) (payload : List Byte) (s : State) : Result :=
  .next (s.emissionOf ([index] ++ payload ++ Wire.trailer))

end Sys2Proof.Machine
end

