-- ==== Sys2Proof/Machine/Dispatch.lean ====
section
/-! DEFINITION. One arm per constructor of Instr: each calls that instruction's meaning. -/

namespace Sys2Proof.Machine

def exec (i : Instr) (s : State) : Host.Outcome State Fault Refusal :=
  match i with
  | .nop => Sys2Proof.Machine.execNop s
  | .clear => Sys2Proof.Machine.execClear s
  | .pack => Sys2Proof.Machine.execPack s
  | .build => Sys2Proof.Machine.execBuild s
  | .header => Sys2Proof.Machine.execHeader s
  | .frame => Sys2Proof.Machine.execFrame s
  | .job => Sys2Proof.Machine.execJob s
  | .illegal rsvd opcode => Sys2Proof.Machine.execIllegal rsvd opcode s
  | .wireHeader bodyLen => Sys2Proof.Machine.execWireHeader bodyLen s
  | .wireStartJob => Sys2Proof.Machine.execWireStartJob s
  | .wirePrintData width height bitmap => Sys2Proof.Machine.execWirePrintData width height bitmap s
  | .wireFormFeed => Sys2Proof.Machine.execWireFormFeed s
  | .wireStatus => Sys2Proof.Machine.execWireStatus s
  | .wireEnd => Sys2Proof.Machine.execWireEnd s
  | .wireChunk index payload => Sys2Proof.Machine.execWireChunk index payload s
  | .wireChunkLast index payload => Sys2Proof.Machine.execWireChunkLast index payload s

end Sys2Proof.Machine
end

