-- ==== Sys2Proof/Machine/Bus.lean ====
section
/-! DEFINITION. The register window (spec/30_encoding.md R93) and the host's accesses to it (spec/20_memory.md R61..R63,
R66, R67), with the ports behind them: command issue (spec/43_control.md R220), PIXIN (spec/40_serializer.md R140) and
OUTDATA (R228). -/

namespace Sys2Proof.Machine

/-- The registers of the window (R93). -/
inductive Reg where
  | cmd
  | status
  | width
  | height
  | pixin
  | pixcnt
  | bmplen
  | bodylen
  | csum
  | chunkcnt
  | outlevel
  | outblks
  | outdata
  deriving DecidableEq, Repr

/-- A register's offset from PEE_BASE (R93). -/
def Reg.offset : Reg → Nat
  | .cmd => 0x00
  | .status => 0x04
  | .width => 0x08
  | .height => 0x0C
  | .pixin => 0x10
  | .pixcnt => 0x14
  | .bmplen => 0x18
  | .bodylen => 0x1C
  | .csum => 0x20
  | .chunkcnt => 0x24
  | .outlevel => 0x28
  | .outblks => 0x2C
  | .outdata => 0x30

/-- The register at an offset; none at a reserved one (R93, R66). -/
def regAt : Nat → Option Reg
  | 0x00 => some .cmd
  | 0x04 => some .status
  | 0x08 => some .width
  | 0x0C => some .height
  | 0x10 => some .pixin
  | 0x14 => some .pixcnt
  | 0x18 => some .bmplen
  | 0x1C => some .bodylen
  | 0x20 => some .csum
  | 0x24 => some .chunkcnt
  | 0x28 => some .outlevel
  | 0x2C => some .outblks
  | 0x30 => some .outdata
  | _ => none

/-- The offset of an admitted access: 4 bytes, aligned, inside the window at PEE_BASE (R61); none for any other. -/
def admittedOffset (c : Config) (addr size : Nat) : Option Nat :=
  if size = 4 ∧ c.peeBase ≤ addr ∧ (addr - c.peeBase) % 4 = 0 ∧ addr - c.peeBase ≤ 0xFC then
    some (addr - c.peeBase)
  else none

/-! ### Reads -/

/-- The word an OUTDATA read returns: 0 when OUTFIFO has no unread byte (R95, R228). -/
def State.outData (s : State) : Word :=
  match popFifo s.outfifo with
  | some (b, last, _) => outDataWord b last
  | none => 0

/-- The state after an OUTDATA read: the byte is gone, and no register has changed but the counts of OUTFIFO (R228); the
byte after a LAST byte begins a block (R95). The byte is in no record: a statement that logs it says so after. -/
def State.popOut (s : State) : State :=
  match popFifo s.outfifo with
  | some (_, last, rest) => { s with outfifo := rest, readPlace := s.readPlace.after false last }
  | none => s

/-- The value a read of a register returns (R62). CMD and PIXIN are write-only and read 0 (R66). -/
def State.readReg (r : Reg) (s : State) : Word :=
  match r with
  | .cmd => 0
  | .status => s.statusWord
  | .width => s.width
  | .height => s.height
  | .pixin => 0
  | .pixcnt => BitVec.ofNat 32 s.pixbuf.length
  | .bmplen => BitVec.ofNat 32 s.bmpbuf.length
  | .bodylen => s.bodylen
  | .csum => s.csum.setWidth 32
  | .chunkcnt => s.chunkcnt.setWidth 32
  | .outlevel => BitVec.ofNat 32 s.outLevel
  | .outblks => BitVec.ofNat 32 s.outBlks
  | .outdata => s.outData

/-- The value `MemRead(off, 4)` returns (R62): 0 at a reserved offset (R66). -/
def State.readValue (off : Nat) (s : State) : Word :=
  match regAt off with
  | some r => s.readReg r
  | none => 0

/-- The state after `MemRead(off, 4)`: "Only a read of OUTDATA changes state" (R62). -/
def State.afterRead (off : Nat) (s : State) : State := if regAt off = some .outdata then s.popOut else s

/-! ### Writes -/

/-- A write to WIDTH, HEIGHT or BODYLEN (R63), PIXIN (R140) or CMD (R220): ignored with OVR while BUSY = 1 (R67). -/
def State.unlessBusy (effect : State → State) (s : State) : State := if s.busy then s.setOvr else effect s

/-- Command issue (R220). NOP runs at once and touches nothing (R222); in the error state only CLEAR is accepted (R254);
an accepted word waits in PENDING and is decoded at its execute step (R221, log 5). BUSY is tested first, as R220 writes it,
also while CLEAR waits in the error state (log 14). -/
def issue (w : Word) (s : State) : Result :=
  if w = 0 then exec (decodeCmd w) s
  else .next (s.unlessBusy fun t => if t.err && w ≠ 1 then t else t.accept w)

/-- A PIXIN write (R140). -/
def State.pixelIn (v : Word) (s : State) : State :=
  s.unlessBusy fun t =>
    if t.pixbuf.length < t.cfg.pixCap then t.appendPixel (pixelOf v) else t.raise .pixelOverflow 0xFF

/-- A write to a register (R63). A write to a read-only register has no effect (R66). -/
def writeReg (r : Reg) (v : Word) (s : State) : Result :=
  match r with
  | .cmd => issue v s
  | .status => .next s
  | .width => .next (s.unlessBusy fun t => { t with width := v })
  | .height => .next (s.unlessBusy fun t => { t with height := v })
  | .pixin => .next (s.pixelIn v)
  | .pixcnt => .next s
  | .bmplen => .next s
  | .bodylen => .next (s.unlessBusy fun t => { t with bodylen := v })
  | .csum => .next s
  | .chunkcnt => .next s
  | .outlevel => .next s
  | .outblks => .next s
  | .outdata => .next s

/-- `MemWrite(off, 4, v)` (R63): no effect at a reserved offset (R66). -/
def memWrite (off : Nat) (v : Word) (s : State) : Result :=
  match regAt off with
  | some r => writeReg r v s
  | none => .next s

end Sys2Proof.Machine
end

