-- ==== Sys2Proof/Machine/Engine.lean ====
section
/-! DEFINITION. The engine agent (spec/43_control.md R221, R226, R229). -/

namespace Sys2Proof.Machine

/-- An engine step: the execute step of the pending word (R221), which empties PENDING and runs the decoded instruction;
with nothing pending, the emission step (R226), or no step at all (R229). -/
def engineStep (s : State) : Result :=
  match s.pending with
  | some w => exec (decodeCmd w) { s with pending := none }
  | none => .next s.emission

/-- n engine steps one after another, with no host step between them. -/
def engineSteps : Nat → State → Result
  | 0, s => .next s
  | n + 1, s =>
    match engineStep s with
    | .next t => engineSteps n t
    | .fault f => .fault f
    | .refused r => .refused r

end Sys2Proof.Machine
end

