-- ==== Sys2Proof/Machine/HostAgent.lean ====
section
/-! DEFINITION. The host agent (spec/00_scope.md R14): its bus accesses (spec/20_memory.md R61), its program notation
(spec/30_encoding.md R106, R107) and the reset input (spec/70_reset_and_hazards.md R290). -/

namespace Sys2Proof.Machine

/-! ### The notation of R106 and R107 -/

/-- `wr REG, v` (R106), the register by its offset. -/
def wr (c : Config) (off : Nat) (v : Word) : HostStmt := .bus (.write (c.peeBase + off) 4 v)

/-- `rd REG` (R106), the register by its offset. -/
def rd (c : Config) (off : Nat) : HostStmt := .bus (.read (c.peeBase + off) 4)

/-- `cmd OP` (R107), the opcode of R91. -/
def cmd (c : Config) (opcode : Word) : HostStmt := wr c Reg.cmd.offset opcode

/-- `pix b0 b1 ... bk` (R107). -/
def pix (c : Config) (bits : List Bool) : List HostStmt :=
  bits.map fun b => wr c Reg.pixin.offset (BitVec.ofNat 32 b.toNat)

/-- `rep n { S }` (R107). -/
def rep (n : Nat) (body : List HostStmt) : List HostStmt := (List.replicate n body).flatten

/-- `run OP` (R107): issue, then the loop that drains OUTFIFO until BUSY = 0 and OUTLEVEL = 0. -/
def run (c : Config) (opcode : Word) : List HostStmt := [cmd c opcode, .runPop]

/-! ### One host step -/

/-- The statement is done: the program goes on after it. -/
def State.goOn (rest : List HostStmt) (s : State) : State := { s with prog := rest }

/-- `if d[9] = 1 log d[7:0], d[8]` (R107); place is the byte's place in its block (R95). -/
def State.logData (place : BlockPlace) (d : Word) (s : State) : State :=
  if d.getLsbD 9 then
    { s with
      log := s.log ++ [⟨d.extractLsb' 0 8, place, d.getLsbD 8⟩]
      readPlace := place.after true (d.getLsbD 8) }
  else s

/-- `rd OUTDATA -> d ; if d[9] = 1 log d[7:0], d[8]` (R107). -/
def State.popAndLog (s : State) : State := s.popOut.logData s.readPlace s.outData

/-- A base statement: an access R61 admits is performed, and a read's value becomes the statement's result (R106); any
other access is refused. -/
def busStep (a : BusAccess) (rest : List HostStmt) (s : State) : Result :=
  match a with
  | .read addr size =>
    match admittedOffset s.cfg addr size with
    | some off => .next { s.afterRead off with results := s.results ++ [s.readValue off], prog := rest }
    | none => .refused (.accessNotAdmitted addr size)
  | .write addr size v =>
    match admittedOffset s.cfg addr size with
    | some off => memWrite off v (s.goOn rest)
    | none => .refused (.accessNotAdmitted addr size)

/-- Where the `rd STATUS` of a loop leaves the program: BUSY is bit 0 of the word read (R107). -/
def afterStatus (s : State) (ifBusy ifNot : List HostStmt) : List HostStmt :=
  if (s.readReg .status).getLsbD 0 then ifBusy else ifNot

/-- A host step: the next statement's next access (R14, R107), or the reset input where the program asserts it (R290, log
15). A host that has executed its
last statement has no step, and nothing changes (log 10). -/
def hostStep (s : State) : Result :=
  match s.prog with
  | [] => .next s
  | .bus a :: rest => busStep a rest s
  | .wait :: rest => .next (s.goOn (afterStatus s (.wait :: rest) rest))
  | .drain :: rest => .next (s.popAndLog.goOn (if s.outData.getLsbD 9 then .drain :: rest else rest))
  | .runPop :: rest => .next (s.popAndLog.goOn (.runStatus :: rest))
  | .runStatus :: rest => .next (s.goOn (afterStatus s (.runPop :: rest) (.runLevel :: rest)))
  | .runLevel :: rest => .next (s.goOn (if s.readReg .outlevel = 0 then rest else .runPop :: rest))
  | .reset :: rest => .next (s.clear.goOn rest)

/-- The bytes of the block a byte belongs to, up to and with that byte, if the record holds them all: a first byte begins a
block (R95), a next byte goes on with the one begun, and a block with a gap is none of the record's. -/
def extendBlock (begun : Option Block) (e : LogByte) : Option Block :=
  match e.place with
  | .first => some [e.byte]
  | .next => begun.map (· ++ [e.byte])
  | .gap => none

/-- The blocks of a record, "each block from a first byte to its LAST byte" (R303), where begun is the block begun and not
ended before it. A block whose LAST byte never came, cut off by reset or CLEAR or not yet ended, is no block of it, and no
more is one of which a plain `rd` has taken a byte (log 8). -/
def splitBlocks (begun : Option Block) : List LogByte → List Block
  | [] => []
  | e :: rest =>
    if e.last then (extendBlock begun e).toList ++ splitBlocks none rest else splitBlocks (extendBlock begun e) rest

/-- The blocks the host hands to the transport, in the order it read them (R107, R296). -/
def State.loggedBlocks (s : State) : List Block := splitBlocks none s.log

/-! ### Whose turn it is -/

/-- The agent that moves next: the one `sched` names. Where `sched` fixes nothing more, the engine if it has a step and
the host otherwise, which keeps the weak fairness of R300 (log 1). -/
def State.nextAgent (s : State) : Agent :=
  match s.sched with
  | a :: _ => a
  | [] => if s.engineEnabled then .engine else .host

/-- The turn is spent. -/
def State.spendTurn (s : State) : State := { s with sched := s.sched.tail }

/-! ### Placing an instruction to run next -/

/-- A command word placed where the next step runs it: NOP at the command port, since it is never accepted into PENDING
(R220), any other word in PENDING with the engine's turn next (R221). -/
def State.placeCommand (w : Word) (s : State) : State :=
  if w = 0 then { s with prog := cmd s.cfg w :: s.prog, sched := .host :: s.sched }
  else { s with pending := some w, sched := .engine :: s.sched }

/-- A wire block placed where the next step emits it: at the head of EMIT, with the engine's turn next (R226). -/
def State.placeBlock (b : Block) (s : State) : State :=
  { s with pending := none, emit := b :: s.emit, sched := .engine :: s.sched }

end Sys2Proof.Machine
end

