-- ==== Sys2Proof/Machine/Step.lean ====
section
/-! DEFINITION. One step of the machine: one agent's atomic step (spec/20_memory.md R64, R70). -/

namespace Sys2Proof.Machine

/-- One step: the agent whose turn it is moves, and the turn is spent. The reset input is enabled in every state (R290). -/
def step (s : State) : Host.Outcome State Fault Refusal :=
  match s.nextAgent with
  | .host => hostStep s.spendTurn
  | .engine => engineStep s.spendTurn
  | .reset => .next s.spendTurn.clear

/-- The state with an instruction placed so that the very next step runs it (log 4): a 32-bit word is a command word, any
other length the bytes of a wire block (log 11). -/
def State.withFetchWord (s : State) (nbits w : Nat) : State :=
  if nbits = 32 then s.placeCommand (BitVec.ofNat 32 w) else s.placeBlock (tableBytes nbits w)

end Sys2Proof.Machine
end

