-- ==== Sys2Proof/Safety.lean ====
section
/-! DEFINITION. What counts as a safe run: the invariants of spec/10_state.md R43, the states a run reaches, and the end of a
run (spec/70_reset_and_hazards.md R303). -/

namespace Sys2Proof.Machine

/-- A block the PEE may hold: non-empty and at most 503 bytes (R43, R199). -/
abbrev blockOk (b : Block) : Prop := 1 ≤ b.length ∧ b.length ≤ 503

/-- The invariants of R43, clause by clause. -/
structure State.Bounded (s : State) : Prop where
  pixcnt : s.pixbuf.length ≤ s.cfg.pixCap
  outlevel : s.outLevel ≤ s.cfg.outCap
  chunkcnt : s.chunkcnt.toNat ≤ 256
  bmplen : s.bmpbuf.length ≤ Wire.ceilDiv s.cfg.pixCap 8
  bodylen : s.bodybuf.length = 0 ∨
    (24 ≤ s.bodybuf.length ∧ s.bodybuf.length ≤ 24 + Wire.ceilDiv s.cfg.pixCap 8)
  done : s.done = true → s.busy = false
  noError : s.err = false → s.errcode = 0 ∧ s.errop = 0
  outBlocks : ∀ b ∈ s.outfifo, blockOk b
  emitBlocks : ∀ b ∈ s.emit, blockOk b

/-- R43 with what makes it hold step by step: the parameters are in range (R8), a command waits only while nothing is being
emitted and is never NOP, in the error state only CLEAR waits (R220), and a block begun at OUTDATA has its LAST byte still to be read
(R39, R95). -/
structure State.Inv (s : State) : Prop where
  cfg : s.cfg.Valid
  bounded : s.Bounded
  pendingAlone : s.pending ≠ none → s.emit = []
  pendingWord : s.pending ≠ some 0
  pendingInError : s.err = true → s.pending = none ∨ s.pending = some 1
  quietInError : s.err = true → s.emit = []
  readPlace : s.readPlace ≠ .first → s.outfifo ≠ []

/-- A state a run starts in: the PEE right after reset (R42), with any parameters R8 allows, any host program and any
interleaving. -/
def State.Start (s : State) : Prop := s.cfg.Valid ∧ s.clear = s ∧ s.results = [] ∧ s.log = []

/-- The states the machine reaches from a start. -/
inductive Reachable : State → Prop where
  | start {s : State} (h : s.Start) : Reachable s
  | step {s t : State} (h : Reachable s) (hs : Machine.step s = .next t) : Reachable t

/-- The end of a run (R303): the host has executed its last statement, BUSY is 0 and OUTFIFO is empty. -/
def State.ended (s : State) : Bool := s.prog.isEmpty && !s.busy && s.outfifo.isEmpty

/-- The result of a run (R303): the host's log of blocks and the final STATUS. -/
def State.result (s : State) : List Block × Word := (s.loggedBlocks, s.statusWord)

/-- The engine is held (R226, R293): a block waits that does not fit. -/
def State.held (s : State) : Bool :=
  match s.pending, s.emit with
  | none, b :: _ => !s.fits b
  | none, [] => false
  | some _, _ => false

/-- The next step is the engine's execute step of the word w (R221). -/
abbrev State.executes (s : State) (w : Word) : Prop := s.nextAgent = .engine ∧ s.pending = some w

/-- The next step is the engine's emission step of the block b (R226). -/
abbrev State.emits (s : State) (b : Block) : Prop :=
  s.nextAgent = .engine ∧ s.pending = none ∧ s.emit.head? = some b ∧ s.fits b = true

/-- The next step is the host's, at this statement. -/
abbrev State.hostDoes (s : State) (st : HostStmt) : Prop := s.nextAgent = .host ∧ s.prog.head? = some st

/-- The next step is the host's 32-bit write of v to the register at offset off. -/
abbrev State.hostWrites (s : State) (off : Nat) (v : Word) : Prop :=
  s.hostDoes (.bus (.write (s.cfg.peeBase + off) 4 v))

/-- The next step is a read of OUTDATA whose byte is not logged: the plain statement `rd OUTDATA` (R106). -/
abbrev State.hostPopsUnlogged (s : State) : Prop := s.hostDoes (.bus (.read (s.cfg.peeBase + 0x30) 4))

/-- The next step is a read of OUTDATA by any statement (R106, R107). -/
abbrev State.hostPops (s : State) : Prop := s.hostPopsUnlogged ∨ s.hostDoes .drain ∨ s.hostDoes .runPop

/-- The next step asserts the reset input (R290): as a turn of its own, or as the host program's statement (log 15). -/
abbrev State.resets (s : State) : Prop := s.nextAgent = .reset ∨ s.hostDoes .reset

/-- The next step puts every piece of state at its reset value: CLEAR's execute step or the reset input (R42). -/
abbrev State.clears (s : State) : Prop := s.executes 1 ∨ s.resets

/-- A statement none of whose accesses R61 refuses. -/
def HostStmt.admitted (c : Config) : HostStmt → Bool
  | .bus (.read addr size) => (admittedOffset c addr size).isSome
  | .bus (.write addr size _) => (admittedOffset c addr size).isSome
  | .wait => true
  | .drain => true
  | .runPop => true
  | .runStatus => true
  | .runLevel => true
  | .reset => true

/-- A safe program: R61 admits every access it can make. -/
def State.safeProg (s : State) : Bool := s.prog.all (HostStmt.admitted s.cfg)

/-- The bytes of blocks as the output port gives them: (byte, LAST) (R95, R228). -/
def tagBlock : Block → List (Byte × Bool)
  | [] => []
  | [b] => [(b, true)]
  | b :: c :: bs => (b, false) :: tagBlock (c :: bs)

/-- The same bytes as the host's record holds them when all are logged, the first of them at place p (R95, R107). -/
def markPlace (p : BlockPlace) : List (Byte × Bool) → List LogByte
  | [] => []
  | (b, last) :: rest => ⟨b, p, last⟩ :: markPlace (p.after true last) rest

/-- The output stream in its order (R71): what the host has logged, what OUTFIFO holds, what is still to be emitted. -/
def State.stream (s : State) : List LogByte :=
  s.log ++ markPlace s.readPlace (s.outfifo.flatMap tagBlock ++ s.emit.flatMap tagBlock)

end Sys2Proof.Machine
end

