-- ==== Sys2Proof/Certificates/Slice0/Obligations.lean ====
section
/-! DEFINITION. The statements for the provers, in the order of OBLIGATIONS.json. The words they share stand in the namespace
Sys2Proof.Claims. -/

namespace Sys2Proof.Claims

open Sys2Proof.Machine

/-- Every piece of the PEE's state at its value in the table of R42, what the host reads of it, and the byte read next from
OUTDATA a first byte (R95). -/
structure AtReset (s : State) : Prop where
  status : s.readReg .status = 0
  done : s.done = false
  err : s.err = false
  ovr : s.ovr = false
  errcode : s.errcode = 0
  errop : s.errop = 0
  width : s.width = 0
  height : s.height = 0
  bodylen : s.bodylen = 0
  csum : s.csum = 0
  chunkcnt : s.chunkcnt = 0
  pixbuf : s.pixbuf = []
  bmpbuf : s.bmpbuf = []
  bodybuf : s.bodybuf = []
  outfifo : s.outfifo = []
  counts : s.readReg .pixcnt = 0 ∧ s.readReg .bmplen = 0 ∧ s.readReg .outlevel = 0 ∧ s.readReg .outblks = 0
  firstByte : s.readPlace = .first
  pending : s.pending = none
  emit : s.emit = []

/-- What is no state of the PEE is the same: the parameters, the host and the interleaving. -/
abbrev SameHost (s t : State) : Prop :=
  t.cfg = s.cfg ∧ t.sched = s.sched ∧ t.prog = s.prog ∧ t.results = s.results ∧ t.log = s.log

/-- An error of kind code and opcode op was the first, and nothing but STATUS, PENDING and EMIT has changed. -/
abbrev FirstError (code : BitVec 4) (op : Byte) (s t : State) : Prop :=
  t = { s with err := true, errcode := code, errop := op, done := false, pending := none, emit := [] }

/-- n reads of OUTDATA one after another: the words returned. -/
def outReads : Nat → State → List Word
  | 0, _ => []
  | n + 1, s => s.readValue 0x30 :: outReads n (s.afterRead 0x30)

/-- The command word w is issued and the engine steps until it is idle or held; 300 steps are enough for one execute
step and 257 emission steps, and a step of an idle or held engine changes nothing. -/
def issueAndFinish (w : Word) (s : State) : Result :=
  match issue w s with
  | .next t => engineSteps 300 t
  | .fault f => .fault f
  | .refused r => .refused r

/-- Command words issued one after another, each when the one before it has finished. -/
def issueAll : List Word → State → Result
  | [], s => .next s
  | w :: ws, s =>
    match issueAndFinish w s with
    | .next t => issueAll ws t
    | .fault f => .fault f
    | .refused r => .refused r

/-- What a receiver keeps of chunk i of n: not byte 0, and of the last chunk not the final 2 bytes (R198). -/
def stripped (n i : Nat) (c : Block) : List Byte :=
  if i + 1 = n then (c.drop 1).take (c.length - 3) else c.drop 1

end Sys2Proof.Claims

open Sys2Proof Sys2Proof.Machine Sys2Proof.Claims

/-! ### Encodings -/

/-- R91: the seven opcodes, as command words; and R90's word format through the encoder's bytes. -/
def Obligations.CommandWordsDecode : Prop :=
  decodeCmd 0x00000000 = .nop ∧ decodeCmd 0x00000001 = .clear ∧ decodeCmd 0x00000002 = .pack ∧
  decodeCmd 0x00000003 = .build ∧ decodeCmd 0x00000004 = .header ∧ decodeCmd 0x00000005 = .frame ∧
  decodeCmd 0x00000006 = .job ∧
  decode .cmd [0x06, 0x00, 0x00, 0x00] = .ok (.job, []) ∧
  decode .jobHeader [0xFF, 0xF0, 0x12, 0x34, 0xCD, 0x02, 0x00, 0x00, 0x04] = .ok (.wireHeader 717, []) ∧
  decode .command [0x1B, 0x73, 0x9A, 0x02, 0x00, 0x00] = .ok (.wireStartJob, []) ∧
  decode .command [0x1B, 0x44, 0x01, 0x02, 0x08, 0x00, 0x00, 0x00, 0x02, 0x00, 0x00, 0x00, 0x81, 0x53]
    = .ok (.wirePrintData 8 2 [0x81, 0x53], []) ∧
  decode .command [0x1B, 0x45] = .ok (.wireFormFeed, []) ∧
  decode .command [0x1B, 0x41] = .ok (.wireStatus, []) ∧
  decode .command [0x1B, 0x51] = .ok (.wireEnd, []) ∧
  decode (.chunk 1) [0x00, 0x05, 0x12, 0x34] = .ok (.wireChunkLast 0 [0x05], [])

/-- R92: a word is legal iff bits 31:8 are 0 and bits 7:0 are in 0x00..0x06; every other word, 0x00000100 and the opcodes
0x07..0xFF among them, is the illegal instruction and its execute step raises IllegalCommand; NOP is exactly the word 0;
no illegal word is another command. -/
def Obligations.LegalWordsExactlyOpcodes0To6 : Prop :=
  ∀ w : Word,
    (((w >>> 8 = 0 ∧ w &&& 0xFF ≤ 6) ↔ ∀ r o, decodeCmd w ≠ .illegal r o)) ∧
    (¬ (w >>> 8 = 0 ∧ w &&& 0xFF ≤ 6) →
      decodeCmd w = .illegal (w.extractLsb' 8 24) (w.extractLsb' 0 8) ∧
      ∀ s : State, s.err = false →
        ∃ t, exec (decodeCmd w) s = .next t ∧ FirstError 5 (w.extractLsb' 0 8) s t) ∧
    (decodeCmd w = .nop ↔ w = 0) ∧
    decodeCmd 0x00000100 = .illegal 1 0

/-- The decoder undoes the encoder, in every place an instruction's encoding may stand and whatever follows it. -/
def Obligations.DecodeOfEncode : Prop :=
  ∀ (i : Instr) (f : Format) (rest : List Byte),
    i.wellFormed = true → i.standsIn f = true → decode f (encode i ++ rest) = .ok (i, rest)

/-- The decoder accepts nothing else: what it reads is well formed, stands there, and encodes to the bytes read. That it
refuses a wrong checksum, another constant byte or an odd area is the model's choice (DEDUCED, log 7: R103 gives lengths and
names no checks, and N14 says the source does not give what a printer rejects), and so is the byte order of a command word
(log 11). -/
def Obligations.DecodedBytesAreTheEncoding : Prop :=
  ∀ (f : Format) (bs : List Byte) (i : Instr) (rest : List Byte),
    decode f bs = .ok (i, rest) → i.wellFormed = true ∧ i.standsIn f = true ∧ encode i ++ rest = bs

/-! ### The wire functions -/

/-- R130: le32 is the four bytes from the least significant, with the corner cases and the example. -/
def Obligations.Le32LittleEndian : Prop :=
  (∀ v : Word, Wire.le32 v =
    [v.extractLsb' 0 8, v.extractLsb' 8 8, v.extractLsb' 16 8, v.extractLsb' 24 8] ∧
    ∀ b0 b1 b2 b3, Wire.le32 v = [b0, b1, b2, b3] →
      b0.toNat + 256 * b1.toNat + 65536 * b2.toNat + 16777216 * b3.toNat = v.toNat) ∧
  Wire.le32 0 = [0x00, 0x00, 0x00, 0x00] ∧ Wire.le32 0xFFFFFFFF = [0xFF, 0xFF, 0xFF, 0xFF] ∧
  Wire.le32 717 = [0xCD, 0x02, 0x00, 0x00]

/-- R131, R132: pixel 8k + j is bit j of byte k, absent pixels are 0, there are ceil(n / 8) bytes; with the corner cases
and the example. -/
def Obligations.PackPutsPixelsLsbFirst : Prop :=
  (∀ p : List Bool,
    (Wire.pack p).length = (p.length + 7) / 8 ∧
    (∀ w h, p.length = w * h → (Wire.pack p).length = (w * h + 7) / 8) ∧
    ∀ k j, k < (Wire.pack p).length → j < 8 →
      ((Wire.pack p).getD k 0).getLsbD j = (decide (8 * k + j < p.length) && p.getD (8 * k + j) false)) ∧
  Wire.pack [] = [] ∧ Wire.pack [true] = [0x01] ∧
  Wire.pack [false, false, false, false, false, false, false, true] = [0x80] ∧
  Wire.pack (List.replicate 9 true) = [0xFF, 0x01] ∧
  Wire.pack [true, false, false, false, false, false, false, true, true, true, false, false, true, false, true, false]
    = [0x81, 0x53]

/-- R97, R99, R133, R135, R137: the constant command blocks; R98, R134: the PrintData block offset by offset, which checks
nothing. Each is the encoding of its row. -/
def Obligations.CommandBlockLayouts : Prop :=
  Wire.startJob = [0x1B, 0x73, 0x9A, 0x02, 0x00, 0x00] ∧ Wire.formFeed = [0x1B, 0x45] ∧
  Wire.statusBlk = [0x1B, 0x41] ∧ Wire.endBlk = [0x1B, 0x51] ∧
  encode .wireStartJob = Wire.startJob ∧ encode .wireFormFeed = Wire.formFeed ∧
  encode .wireStatus = Wire.statusBlk ∧ encode .wireEnd = Wire.endBlk ∧
  (∀ (w h : Word) (bm : List Byte),
    encode (.wirePrintData w h bm) = Wire.printData w h bm ∧
    (Wire.printData w h bm).length = 12 + bm.length ∧
    (Wire.printData w h bm).take 4 = [0x1B, 0x44, 0x01, 0x02] ∧
    (∀ k, k < 4 → (Wire.printData w h bm).getD (4 + k) 0 = w.extractLsb' (8 * k) 8) ∧
    (∀ k, k < 4 → (Wire.printData w h bm).getD (8 + k) 0 = h.extractLsb' (8 * k) 8) ∧
    (∀ k, k < bm.length → (Wire.printData w h bm).getD (12 + k) 0 = bm.getD k 0)) ∧
  Wire.printData 8 2 [0x81, 0x53] =
    [0x1B, 0x44, 0x01, 0x02, 0x08, 0x00, 0x00, 0x00, 0x02, 0x00, 0x00, 0x00, 0x81, 0x53]

/-- R100, R138, R139: the JobBody's parts at their offsets, its length 24 + N, and 24 + 4h when the width is 32 and the
bitmap fits the area. -/
def Obligations.JobBodyLayout : Prop :=
  ∀ (w h : Word) (bm : List Byte),
    (Wire.body w h bm).length = 24 + bm.length ∧
    (Wire.body w h bm).take 6 = Wire.startJob ∧
    ((Wire.body w h bm).drop 6).take (12 + bm.length) = Wire.printData w h bm ∧
    ((Wire.body w h bm).drop (18 + bm.length)).take 2 = Wire.formFeed ∧
    ((Wire.body w h bm).drop (20 + bm.length)).take 2 = Wire.statusBlk ∧
    (Wire.body w h bm).drop (22 + bm.length) = Wire.endBlk ∧
    Wire.body w h bm = Wire.startJob ++ Wire.printData w h bm ++ Wire.formFeed ++ Wire.statusBlk ++ Wire.endBlk ∧
    (w = 32 → dimOK w h bm.length = true → bm.length = 4 * h.toNat ∧
      (Wire.body w h bm).length = 24 + 4 * h.toNat)

/-- The dimension check (R143) and R145: it compares the exact area with 8 times the byte count, so a raster short by 1 to 7
pixels, padded by the packer, passes; with as many pixels as the area it holds iff the area is a multiple of 8, and
always with width 32. -/
def Obligations.DimensionCheck : Prop :=
  (∀ (w h : Word) (n : Nat), dimOK w h n = true ↔ w.toNat * h.toNat = 8 * n) ∧
  (∀ (w h : Word) (p : List Bool), w.toNat * h.toNat % 8 = 0 → p.length ≤ w.toNat * h.toNat →
    w.toNat * h.toNat < p.length + 8 → dimOK w h (Wire.pack p).length = true) ∧
  (∀ (w h : Word) (p : List Bool), p.length = w.toNat * h.toNat →
    (dimOK w h (Wire.pack p).length = true ↔ w.toNat * h.toNat % 8 = 0) ∧
    (w = 32 → dimOK w h (Wire.pack p).length = true))

/-- R144, in part: the length check; that it holds for every packed bitmap a state of the invariant can build from; and that
no step from such a state without an error raises LengthOverflow (code 3). -/
def Obligations.LengthOverflowUnreachable : Prop :=
  (∀ n : Nat, lenOK n = true ↔ 24 + n ≤ 2 ^ 32 - 1) ∧
  ∀ s : State, s.Inv → lenOK s.bmpbuf.length = true ∧ lenOK (Wire.pack s.pixbuf).length = true ∧
    ∀ t : State, s.err = false → step s = .next t → t.errcode ≠ 3

/-- R96, R170, R171: the nine header bytes, offset by offset; the additive checksum mod 256 over the first eight, reduced
once, reduced after each addition, and in the reduced form; it depends only on the length's byte sum mod 256; the corner
cases. -/
def Obligations.HeaderAndAdditiveChecksum : Prop :=
  (∀ L : Word,
    (Wire.header L).length = 9 ∧
    (Wire.header L).take 4 = [0xFF, 0xF0, 0x12, 0x34] ∧
    (∀ k, k < 4 → (Wire.header L).getD (4 + k) 0 = L.extractLsb' (8 * k) 8) ∧
    (Wire.header L).getD 8 0 = Wire.checksum L ∧
    (Wire.checksum L).toNat = (0xFF + 0xF0 + 0x12 + 0x34 + (L.extractLsb' 0 8).toNat + (L.extractLsb' 8 8).toNat +
      (L.extractLsb' 16 8).toNat + (L.extractLsb' 24 8).toNat) % 256 ∧
    Wire.checksum L = (Wire.le32 L).foldl (· + ·) ((0xFF : Byte) + 0xF0 + 0x12 + 0x34) ∧
    Wire.checksum L = 0x35 + L.extractLsb' 0 8 + L.extractLsb' 8 8 + L.extractLsb' 16 8 + L.extractLsb' 24 8) ∧
  (∀ L M : Word, Wire.byteSum (Wire.le32 L) % 256 = Wire.byteSum (Wire.le32 M) % 256 ↔
    Wire.checksum L = Wire.checksum M) ∧
  Wire.checksum 0 = 0x35 ∧ Wire.checksum 255 = 0x34 ∧ Wire.checksum 256 = 0x36 ∧
  Wire.checksum 0xFFFFFFFF = 0x31 ∧ Wire.checksum 0x000100FF = Wire.checksum 0 ∧
  Wire.header 717 = [0xFF, 0xF0, 0x12, 0x34, 0xCD, 0x02, 0x00, 0x00, 0x04]

/-- R191: nchunks, by its bounds and by the values the rule gives; and no built body is empty. -/
def Obligations.ChunkCount : Prop :=
  Wire.nchunks 0 = 1 ∧
  (∀ L : Nat, 1 ≤ L → (Wire.nchunks L - 1) * 500 < L ∧ L ≤ Wire.nchunks L * 500 ∧ 1 ≤ Wire.nchunks L) ∧
  (∀ (w h : Word) (bm : List Byte), Wire.body w h bm ≠ []) ∧
  Wire.nchunks 1 = 1 ∧ Wire.nchunks 499 = 1 ∧ Wire.nchunks 500 = 1 ∧ Wire.nchunks 501 = 2 ∧
  Wire.nchunks 1000 = 2 ∧ Wire.nchunks 1001 = 3 ∧ Wire.nchunks 128000 = 256 ∧ Wire.nchunks 128001 = 257 ∧
  ∀ L : Nat, framable L = true ↔ L ≤ 128000

/-- R192, R194, R199: each chunk's index byte, slice and trailer, its size, and the size of the framed output. -/
def Obligations.ChunkContents : Prop :=
  ∀ B : List Byte, B.length ≤ 128000 →
    (Wire.chunks B).length = Wire.nchunks B.length ∧
    (∀ i, i < Wire.nchunks B.length →
      (Wire.chunks B).getD i [] =
        [BitVec.ofNat 8 i] ++ (B.drop (500 * i)).take (min (500 * (i + 1)) B.length - 500 * i) ++
          (if i = Wire.nchunks B.length - 1 then [0x12, 0x34] else []) ∧
      (BitVec.ofNat 8 i).toNat = i ∧
      ((Wire.chunks B).getD i []).length =
        if i < Wire.nchunks B.length - 1 then 501 else 1 + (B.length - 500 * (Wire.nchunks B.length - 1)) + 2) ∧
    (B ≠ [] → 1 ≤ B.length - 500 * (Wire.nchunks B.length - 1) ∧
      B.length - 500 * (Wire.nchunks B.length - 1) ≤ 500) ∧
    ((Wire.chunks B).map List.length).sum = B.length + Wire.nchunks B.length + 2

/-- R198: stripping the index bytes and the final trailer and concatenating in index order gives exactly the body. -/
def Obligations.ChunksReconstructTheBody : Prop :=
  ∀ B : List Byte, B.length ≤ 128000 →
    (List.range (Wire.chunks B).length).flatMap
      (fun i => stripped (Wire.chunks B).length i ((Wire.chunks B).getD i [])) = B

/-! ### Reset and STATUS -/

/-- R42, R290: State.reset, CLEAR's execute step and hardware reset all give the reset table, from every state; hardware
reset is a host step enabled in every state, a busy one too, and its effect is CLEAR's: a pending or emitting command is
abandoned, OUTFIFO emptied, the error state and OVR cleared. -/
def Obligations.ResetAndClearGiveTheResetTable : Prop :=
  AtReset State.reset ∧
  ∀ s : State, ∃ t, exec .clear s = .next t ∧ AtReset t ∧
    (s.nextAgent = .reset → step s = .next { t with sched := s.sched.tail })

/-- R291, for every choice of the parameters that R8 allows: after reset the engine is idle with every count 0; a JOB with no
setup succeeds and emits the header of L = 24 and one 27-byte chunk with an empty bitmap. That a step of the machine then
changes nothing is the model's choice (logs 4 and 10: no program is placed, and a turn without a step passes). -/
def Obligations.AfterResetIdleAndJobSucceeds : Prop :=
  ∀ (c : Config) (s : State), c.Valid → s = { State.reset with cfg := c } →
  AtReset s ∧ s.busy = false ∧ s.engineEnabled = false ∧ step s = .next s ∧
  ∃ t u, issue 6 s = .next t ∧ engineSteps 3 t = .next u ∧
    u.bodylen = 24 ∧ u.readValue 0x04 = 0x00000002 ∧
    u.outfifo = [[0xFF, 0xF0, 0x12, 0x34, 0x18, 0x00, 0x00, 0x00, 0x4D],
      [0x00, 0x1B, 0x73, 0x9A, 0x02, 0x00, 0x00, 0x1B, 0x44, 0x01, 0x02, 0x00, 0x00, 0x00, 0x00, 0x00, 0x00, 0x00, 0x00,
       0x1B, 0x45, 0x1B, 0x41, 0x1B, 0x51, 0x12, 0x34]]

/-- R44: the BUSY bit of a STATUS read is 1 iff a command is pending or still emitting. -/
def Obligations.BusyIffPendingOrEmitting : Prop :=
  ∀ s : State, (s.readValue 0x04).getLsbD 0 = true ↔ (s.pending ≠ none ∨ s.emit ≠ [])

/-- The STATUS word, field by field, and the bits and offsets that read 0: STATUS 31:16, CSUM 31:8, CHUNKCNT 31:9, OUTDATA
31:10 and 0x34..0xFC. -/
def Obligations.StatusFieldsAndReservedBits : Prop :=
  ∀ s : State,
    (s.readValue 0x04).getLsbD 0 = s.busy ∧ (s.readValue 0x04).getLsbD 1 = s.done ∧
    (s.readValue 0x04).getLsbD 2 = s.err ∧ (s.readValue 0x04).getLsbD 3 = s.ovr ∧
    (s.readValue 0x04).extractLsb' 4 4 = s.errcode ∧ (s.readValue 0x04).extractLsb' 8 8 = s.errop ∧
    (s.readValue 0x04) >>> 16 = 0 ∧ (s.readValue 0x20) >>> 8 = 0 ∧ (s.readValue 0x24) >>> 9 = 0 ∧
    (s.readValue 0x30) >>> 10 = 0 ∧
    ∀ off, off % 4 = 0 → 0x34 ≤ off → off ≤ 0xFC → s.readValue off = 0

/-- R45, R227: DONE is cleared at acceptance and by an error, set exactly when a command other than CLEAR completes (PACK
and BUILD at their execute step without error, HEADER, FRAME and JOB at the emission step of their last block, which
changes nothing else), left 0 by CLEAR and untouched by NOP. When it is set, EMIT is empty. From DONE = 1 a step clears it
exactly when it accepts a command, overflows PIXBUF, or resets (CLEAR's execute step finds DONE = 0 already). -/
def Obligations.DoneRules : Prop :=
  (∀ (s : State) (w : Word), s.busy = false → w ≠ 0 → (s.err = true → w = 1) →
    ∃ t, memWrite 0x00 w s = .next t ∧ t.pending = some w ∧ t.done = false) ∧
  (∀ (s : State) (e : ErrorKind) (op : Byte), (s.raise e op).done = false) ∧
  (∀ s t : State, s.Inv → step s = .next t → s.done = false →
    (t.done = true ↔
      (s.executes 2 ∨
       (s.executes 3 ∧ dimOK s.width s.height s.bmpbuf.length = true ∧ lenOK s.bmpbuf.length = true) ∨
       ∃ b, s.emits b ∧ s.emit = [b])) ∧
    (t.done = true → t.emit = [])) ∧
  (∀ s t : State, s.Inv → step s = .next t → s.done = true →
    (t.done = false ↔
      ((∃ w, s.hostWrites 0x00 w ∧ w ≠ 0 ∧ (s.err = true → w = 1)) ∨
       (∃ v, s.hostWrites 0x10 v ∧ s.pixbuf.length = s.cfg.pixCap) ∨ s.clears))) ∧
  (∀ (s : State) (b : Block), s.emits b → s.emit = [b] → step s = .next { s with
    sched := s.sched.tail, outfifo := s.outfifo ++ [b], emit := [], done := true }) ∧
  (∀ s : State, ∃ t, exec .clear s = .next t ∧ t.done = false) ∧
  ∀ s : State, exec .nop s = .next s

/-- R47: OVR is set exactly when the engine ignores a host write because BUSY = 1, and cleared only by CLEAR or reset. -/
def Obligations.OvrRules : Prop :=
  (∀ s t : State, step s = .next t → s.ovr = false →
    (t.ovr = true ↔ s.busy = true ∧
      ((∃ v, s.hostWrites 0x08 v) ∨ (∃ v, s.hostWrites 0x0C v) ∨ (∃ v, s.hostWrites 0x10 v) ∨
       (∃ v, s.hostWrites 0x1C v) ∨ (∃ w, w ≠ 0 ∧ s.hostWrites 0x00 w)))) ∧
  (∀ s t : State, step s = .next t → s.ovr = true → (t.ovr = false ↔ s.clears)) ∧
  (∀ s : State, s.setOvr.err = s.err) ∧
  ∀ (s : State) (w : Word), s.ovr = true → s.busy = false → s.err = false → w ≠ 0 →
    memWrite 0x00 w s = .next { s with pending := some w, done := false }

/-! ### The commands -/

/-- R222: NOP changes nothing in any state, a busy one or one in error included; it is the word 0 and 0x00000100 is not. -/
def Obligations.NopChangesNothing : Prop :=
  (∀ s : State, exec .nop s = .next s ∧ memWrite 0x00 0 s = .next s) ∧
  decodeCmd 0 = .nop ∧ decodeCmd 0x00000100 = .illegal 1 0 ∧
  ∀ s : State, s.err = false → ∃ t, exec (decodeCmd 0x00000100) s = .next t ∧ FirstError 5 0 s t

/-- R223: CLEAR puts every piece of the PEE's state at its reset value, DONE at 0, and leaves the host alone; it is the only
command accepted in the error state and, like any other, is ignored while BUSY = 1. -/
def Obligations.ClearCommand : Prop :=
  decodeCmd 1 = .clear ∧
  (∀ s : State, ∃ t, exec .clear s = .next t ∧ AtReset t ∧ SameHost s t) ∧
  (∀ s : State, s.busy = false → s.err = true →
    memWrite 0x00 1 s = .next { s with pending := some 1, done := false } ∧
    ∀ w, w ≠ 0 → w ≠ 1 → memWrite 0x00 w s = .next s) ∧
  ∀ s : State, s.busy = true → memWrite 0x00 1 s = .next { s with ovr := true }

/-- R141: PACK replaces BMPBUF by the packed PIXBUF and completes; nothing else changes. -/
def Obligations.PackCommand : Prop :=
  decodeCmd 2 = .pack ∧
  (∀ s : State, exec .pack s =
    .next { s with bmpbuf := Wire.pack s.pixbuf, done := s.done || decide (s.emit = []) }) ∧
  (∀ s : State, s.emit = [] → ∃ t, exec .pack s = .next t ∧ t.done = true ∧ t.err = s.err) ∧
  (∀ s : State, s.pixbuf = [] → ∃ t, exec .pack s = .next t ∧ t.bmpbuf = []) ∧
  (∀ s : State, ∃ t, exec .pack s = .next t ∧
    ∀ j, 8 * t.bmpbuf.length - s.pixbuf.length ≤ 7 ∧
      (j < 8 → s.pixbuf.length ≤ 8 * (t.bmpbuf.length - 1) + j →
        (t.bmpbuf.getD (t.bmpbuf.length - 1) 0).getLsbD j = false)) ∧
  ∀ s : State, s.pixbuf = [true, true, true] →
    ∃ t, exec .pack s = .next t ∧ t.bmpbuf = [0x07] ∧ t.readReg .bmplen = 1

/-- R142: BUILD checks the dimensions, then the length, and builds BODYBUF and BODYLEN; a failing BUILD changes only STATUS;
the area is exact; zero areas and a missing PACK are no errors of their own; the chunk limit is not checked. -/
def Obligations.BuildCommand : Prop :=
  decodeCmd 3 = .build ∧
  (∀ s : State, s.width.toNat * s.height.toNat = 8 * s.bmpbuf.length → 24 + s.bmpbuf.length ≤ 2 ^ 32 - 1 →
    exec .build s = .next { s with
      bodybuf := Wire.body s.width s.height s.bmpbuf
      bodylen := BitVec.ofNat 32 (24 + s.bmpbuf.length)
      done := s.done || decide (s.emit = []) }) ∧
  (∀ s : State, s.err = false → s.width.toNat * s.height.toNat ≠ 8 * s.bmpbuf.length →
    ∃ t, exec .build s = .next t ∧ FirstError 2 0x03 s t) ∧
  (∀ s : State, s.err = false → s.width.toNat * s.height.toNat = 8 * s.bmpbuf.length →
    2 ^ 32 - 1 < 24 + s.bmpbuf.length → ∃ t, exec .build s = .next t ∧ FirstError 3 0x03 s t) ∧
  (∀ s : State, s.bmpbuf = [] → (s.width = 0 ∨ s.height = 0) →
    ∃ t, exec .build s = .next t ∧ t.bodybuf.length = 24 ∧ t.bodylen = 24 ∧ t.err = s.err) ∧
  (∀ s : State, s.width = 65536 → s.height = 65536 → s.err = false →
    ∃ t, exec .build s = .next t ∧ (t.err = false ↔ s.bmpbuf.length = 2 ^ 29)) ∧
  ∀ s : State, s.width = 8 → s.height = 2 → s.bmpbuf = [0x81, 0x53] →
    ∃ t, exec .build s = .next t ∧ t.bodylen = 26 ∧
      t.bodybuf = [0x1B, 0x73, 0x9A, 0x02, 0x00, 0x00, 0x1B, 0x44, 0x01, 0x02, 0x08, 0x00, 0x00, 0x00, 0x02, 0x00, 0x00,
        0x00, 0x81, 0x53, 0x1B, 0x45, 0x1B, 0x41, 0x1B, 0x51]

/-- R173: HEADER reports whatever BODYLEN holds: CSUM and one header block to emit; DONE once the block is in OUTFIFO; with
fewer than 9 bytes free the engine holds; it may be issued again; it raises no error. -/
def Obligations.HeaderCommand : Prop :=
  decodeCmd 4 = .header ∧
  (∀ s : State, exec .header s =
    .next { s with csum := Wire.checksum s.bodylen, emit := [Wire.header s.bodylen] }) ∧
  (∀ s : State, s.pending = some 4 → s.emit = [] → s.outLevel + 9 ≤ s.cfg.outCap →
    engineSteps 2 s = .next { s with
      pending := none
      csum := Wire.checksum s.bodylen
      outfifo := s.outfifo ++ [Wire.header s.bodylen]
      done := true }) ∧
  (∀ (s : State) (n : Nat), s.pending = some 4 → s.cfg.outCap < s.outLevel + 9 →
    engineSteps (n + 1) s = .next { s with
      pending := none
      csum := Wire.checksum s.bodylen
      emit := [Wire.header s.bodylen] }) ∧
  (∀ s : State, s.bodylen = 0 → ∃ t, exec .header s = .next t ∧
    t.emit = [[0xFF, 0xF0, 0x12, 0x34, 0x00, 0x00, 0x00, 0x00, 0x35]]) ∧
  ∀ s : State, s.bodylen = 717 → ∃ t, exec .header s = .next t ∧ t.csum = 0x04 ∧
    t.emit = [[0xFF, 0xF0, 0x12, 0x34, 0xCD, 0x02, 0x00, 0x00, 0x04]]

/-- R174: CSUM changes only at the execute step of HEADER, JOB or CLEAR, or at reset; a failing JOB does not change it. -/
def Obligations.ChecksumRegisterKept : Prop :=
  (∀ s t : State, step s = .next t → ¬ s.executes 4 → ¬ s.executes 6 → ¬ s.clears → t.csum = s.csum) ∧
  (∀ s t : State, step s = .next t → s.executes 6 → s.err = false → t.err = true → t.csum = s.csum) ∧
  (∀ s t : State, exec .header s = .next t → t.csum = Wire.checksum s.bodylen) ∧
  ∀ s t : State, exec .job s = .next t → s.err = false → t.err = false → t.csum = Wire.checksum t.bodylen

/-- R197: FRAME chunks BODYBUF as it stands, whatever BODYLEN holds, and emits no header; a body over 128,000 bytes fails
with nothing emitted and CHUNKCNT as it was; an empty body gives one chunk; each chunk waits for room. -/
def Obligations.FrameCommand : Prop :=
  decodeCmd 5 = .frame ∧
  (∀ s : State, s.bodybuf.length ≤ 128000 → exec .frame s =
    .next { s with chunkcnt := BitVec.ofNat 9 (Wire.nchunks s.bodybuf.length), emit := Wire.chunks s.bodybuf }) ∧
  (∀ s : State, s.err = false → 128000 < s.bodybuf.length →
    ∃ t, exec .frame s = .next t ∧ FirstError 4 0x05 s t) ∧
  (∀ s : State, s.bodybuf = [] → ∃ t, exec .frame s = .next t ∧ t.chunkcnt = 1 ∧ t.emit = [[0x00, 0x12, 0x34]]) ∧
  (∀ s : State, s.pending = some 5 → s.emit = [] → s.bodybuf.length ≤ 128000 →
    s.outLevel + s.bodybuf.length + Wire.nchunks s.bodybuf.length + 2 ≤ s.cfg.outCap →
    ∃ t, engineSteps (1 + Wire.nchunks s.bodybuf.length) s = .next t ∧
      t.outfifo = s.outfifo ++ Wire.chunks s.bodybuf ∧ t.emit = [] ∧ t.done = true) ∧
  (∀ (s : State) (c : Block) (rest : List Block) (n : Nat), s.pending = none → s.emit = c :: rest →
    s.cfg.outCap < s.outLevel + c.length → engineSteps n s = .next s) ∧
  ∀ s : State, s.bodybuf.length = 26 → ∃ t, exec .frame s = .next t ∧ t.chunkcnt = 1 ∧
    t.emit = [[0x00] ++ s.bodybuf ++ [0x12, 0x34]]

/-- R224: JOB checks everything before it writes anything, then does the work of PACK, BUILD, HEADER and FRAME, the header
first and the chunks after it; with room for all, the engine steps that follow put every block into OUTFIFO; a failing JOB
changes only STATUS and emits nothing. -/
def Obligations.JobCommand : Prop :=
  decodeCmd 6 = .job ∧
  (∀ s : State, s.width.toNat * s.height.toNat = 8 * (Wire.pack s.pixbuf).length →
    24 + (Wire.pack s.pixbuf).length ≤ 128000 →
    exec .job s = .next { s with
      bmpbuf := Wire.pack s.pixbuf
      bodybuf := Wire.body s.width s.height (Wire.pack s.pixbuf)
      bodylen := BitVec.ofNat 32 (24 + (Wire.pack s.pixbuf).length)
      csum := Wire.checksum (BitVec.ofNat 32 (24 + (Wire.pack s.pixbuf).length))
      chunkcnt := BitVec.ofNat 9 (Wire.nchunks (24 + (Wire.pack s.pixbuf).length))
      emit := Wire.header (BitVec.ofNat 32 (24 + (Wire.pack s.pixbuf).length)) ::
        Wire.chunks (Wire.body s.width s.height (Wire.pack s.pixbuf)) }) ∧
  (∀ s : State, s.err = false → s.width.toNat * s.height.toNat ≠ 8 * (Wire.pack s.pixbuf).length →
    ∃ t, exec .job s = .next t ∧ FirstError 2 0x06 s t) ∧
  (∀ s : State, s.err = false → s.width.toNat * s.height.toNat = 8 * (Wire.pack s.pixbuf).length →
    2 ^ 32 - 1 < 24 + (Wire.pack s.pixbuf).length → ∃ t, exec .job s = .next t ∧ FirstError 3 0x06 s t) ∧
  (∀ s : State, s.err = false → s.width.toNat * s.height.toNat = 8 * (Wire.pack s.pixbuf).length →
    24 + (Wire.pack s.pixbuf).length ≤ 2 ^ 32 - 1 → 128000 < 24 + (Wire.pack s.pixbuf).length →
    ∃ t, exec .job s = .next t ∧ FirstError 4 0x06 s t) ∧
  (∀ s : State, s.pending = some 6 → s.emit = [] →
    s.width.toNat * s.height.toNat = 8 * (Wire.pack s.pixbuf).length → 24 + (Wire.pack s.pixbuf).length ≤ 128000 →
    s.outLevel + 9 + (24 + (Wire.pack s.pixbuf).length) + Wire.nchunks (24 + (Wire.pack s.pixbuf).length) + 2
      ≤ s.cfg.outCap →
    ∃ t, engineSteps (2 + Wire.nchunks (24 + (Wire.pack s.pixbuf).length)) s = .next t ∧
      t.outfifo = s.outfifo ++ Wire.header (BitVec.ofNat 32 (24 + (Wire.pack s.pixbuf).length)) ::
        Wire.chunks (Wire.body s.width s.height (Wire.pack s.pixbuf)) ∧ t.emit = [] ∧ t.done = true) ∧
  ∀ s : State, s.width = 8 → s.height = 2 →
    s.pixbuf = [true, false, false, false, false, false, false, true, true, true, false, false, true, false, true, false] →
    ∃ t, exec .job s = .next t ∧ t.emit = [[0xFF, 0xF0, 0x12, 0x34, 0x1A, 0x00, 0x00, 0x00, 0x4F],
      [0x00, 0x1B, 0x73, 0x9A, 0x02, 0x00, 0x00, 0x1B, 0x44, 0x01, 0x02, 0x08, 0x00, 0x00, 0x00, 0x02, 0x00, 0x00, 0x00,
       0x81, 0x53, 0x1B, 0x45, 0x1B, 0x41, 0x1B, 0x51, 0x12, 0x34]]

/-- R225: an illegal word raises IllegalCommand with ERRCODE 5 and ERROP its bits 7:0, and changes nothing else; the example
0x07 from reset. -/
def Obligations.IllegalWordRaises : Prop :=
  (∀ (w : Word) (s : State), (w >>> 8 ≠ 0 ∨ 6 < (w &&& 0xFF).toNat) → s.pending = some w → s.emit = [] → s.err = false →
    engineStep s = .next { s with
      pending := none, err := true, errcode := 5, errop := w.extractLsb' 0 8, done := false }) ∧
  (∀ (r : BitVec 24) (o : Byte) (s : State), s.err = false →
    ∃ t, exec (.illegal r o) s = .next t ∧ FirstError 5 o s t) ∧
  ∃ t u, memWrite 0x00 0x07 State.reset = .next t ∧ engineStep t = .next u ∧ u.readValue 0x04 = 0x00000754

/-- R230, for an output that fits: with no error, JOB leaves the same state and the same OUTFIFO as PACK, BUILD, HEADER and
FRAME issued one after another from the same start. -/
def Obligations.JobEqualsUnitCommands : Prop :=
  ∀ s : State, s.busy = false → s.err = false →
    dimOK s.width s.height (Wire.pack s.pixbuf).length = true → 24 + (Wire.pack s.pixbuf).length ≤ 128000 →
    s.outLevel + 9 + (24 + (Wire.pack s.pixbuf).length) + Wire.nchunks (24 + (Wire.pack s.pixbuf).length) + 2
      ≤ s.cfg.outCap →
    ∃ t, issueAll [6] s = .next t ∧ issueAll [2, 3, 4, 5] s = .next t ∧
      t.outfifo = s.outfifo ++
        Wire.header (BitVec.ofNat 32 (24 + (Wire.pack s.pixbuf).length)) ::
          Wire.chunks (Wire.body s.width s.height (Wire.pack s.pixbuf))

/-- What exec never touches, instruction by instruction: the parameters and the host always; the inputs WIDTH, HEIGHT and
PIXBUF, OVR and the place of the byte read next unless the instruction is CLEAR; and of the window, every register outside
those the rules name. -/
def Obligations.ExecFrames : Prop :=
  (∀ (i : Instr) (s t : State), exec i s = .next t → SameHost s t) ∧
  (∀ (i : Instr) (s t : State), i ≠ .clear → exec i s = .next t →
    t.width = s.width ∧ t.height = s.height ∧ t.pixbuf = s.pixbuf ∧ t.ovr = s.ovr ∧ t.readPlace = s.readPlace) ∧
  (∀ s t : State, exec .pack s = .next t →
    t.bodybuf = s.bodybuf ∧ t.outfifo = s.outfifo ∧ t.emit = s.emit ∧ t.pending = s.pending ∧ t.err = s.err ∧
    ∀ off, off ≠ 0x04 → off ≠ 0x18 → t.readValue off = s.readValue off) ∧
  (∀ s t : State, exec .build s = .next t →
    t.bmpbuf = s.bmpbuf ∧ t.outfifo = s.outfifo ∧
    ∀ off, off ≠ 0x04 → off ≠ 0x1C → t.readValue off = s.readValue off) ∧
  (∀ s t : State, exec .header s = .next t →
    t.bmpbuf = s.bmpbuf ∧ t.bodybuf = s.bodybuf ∧ t.outfifo = s.outfifo ∧ t.pending = s.pending ∧ t.err = s.err ∧
    ∀ off, off ≠ 0x04 → off ≠ 0x20 → t.readValue off = s.readValue off) ∧
  (∀ s t : State, exec .frame s = .next t →
    t.bmpbuf = s.bmpbuf ∧ t.bodybuf = s.bodybuf ∧ t.outfifo = s.outfifo ∧
    ∀ off, off ≠ 0x04 → off ≠ 0x24 → t.readValue off = s.readValue off) ∧
  (∀ s t : State, exec .job s = .next t →
    t.outfifo = s.outfifo ∧
    ∀ off, off ≠ 0x04 → off ≠ 0x18 → off ≠ 0x1C → off ≠ 0x20 → off ≠ 0x24 → t.readValue off = s.readValue off) ∧
  ∀ (r : BitVec 24) (o : Byte) (s t : State), exec (.illegal r o) s = .next t →
    t.bmpbuf = s.bmpbuf ∧ t.bodybuf = s.bodybuf ∧ t.outfifo = s.outfifo ∧
    ∀ off, off ≠ 0x04 → t.readValue off = s.readValue off

/-! ### The wire rows -/

/-- The model's meaning of WIRE.HEADER, WIRE.CHUNK and WIRE.CHUNK_LAST (log 6): the emission step of that block (R226). -/
def Obligations.WireBlocksAreEmitted : Prop :=
  (∀ (L : Word) (rest : List Block) (s : State), s.pending = none → s.emit = Wire.header L :: rest →
    s.outLevel + 9 ≤ s.cfg.outCap →
    exec (.wireHeader L) s = .next { s with
      outfifo := s.outfifo ++ [Wire.header L], emit := rest, done := s.done || decide (rest = []) }) ∧
  (∀ (i : Byte) (p : List Byte) (rest : List Block) (s : State), s.pending = none → s.emit = ([i] ++ p) :: rest →
    s.outLevel + (1 + p.length) ≤ s.cfg.outCap →
    exec (.wireChunk i p) s = .next { s with
      outfifo := s.outfifo ++ [[i] ++ p], emit := rest, done := s.done || decide (rest = []) }) ∧
  (∀ (i : Byte) (p : List Byte) (rest : List Block) (s : State), s.pending = none →
    s.emit = ([i] ++ p ++ [0x12, 0x34]) :: rest → s.outLevel + (1 + p.length + 2) ≤ s.cfg.outCap →
    exec (.wireChunkLast i p) s = .next { s with
      outfifo := s.outfifo ++ [[i] ++ p ++ [0x12, 0x34]], emit := rest, done := s.done || decide (rest = []) }) ∧
  ∀ (i : Instr) (s : State),
    ((∃ L, i = .wireHeader L) ∨ (∃ x p, i = .wireChunk x p) ∨ ∃ x p, i = .wireChunkLast x p) →
    (s.pending ≠ none ∨ s.emit.head? ≠ some (encode i) ∨ s.cfg.outCap < s.outLevel + (encode i).length) →
    exec i s = .next s

/-- The model's meaning of the five command-block rows (log 6): each appends its block to the body, and the five in order
on an empty body give the body BUILD writes. -/
def Obligations.WireCommandBlocksBuildTheBody : Prop :=
  (∀ s : State, exec .wireStartJob s = .next { s with bodybuf := s.bodybuf ++ [0x1B, 0x73, 0x9A, 0x02, 0x00, 0x00] }) ∧
  (∀ (w h : Word) (bm : List Byte) (s : State), exec (.wirePrintData w h bm) s = .next { s with
    bodybuf := s.bodybuf ++ ([0x1B, 0x44, 0x01, 0x02] ++ Wire.le32 w ++ Wire.le32 h ++ bm) }) ∧
  (∀ s : State, exec .wireFormFeed s = .next { s with bodybuf := s.bodybuf ++ [0x1B, 0x45] }) ∧
  (∀ s : State, exec .wireStatus s = .next { s with bodybuf := s.bodybuf ++ [0x1B, 0x41] }) ∧
  (∀ s : State, exec .wireEnd s = .next { s with bodybuf := s.bodybuf ++ [0x1B, 0x51] }) ∧
  ∀ s a b c d e t : State, s.bodybuf = [] → exec .wireStartJob s = .next a →
    exec (.wirePrintData s.width s.height s.bmpbuf) a = .next b → exec .wireFormFeed b = .next c →
    exec .wireStatus c = .next d → exec .wireEnd d = .next e → exec .build s = .next t → t.err = false →
    e.bodybuf = t.bodybuf ∧ e = { s with bodybuf := e.bodybuf }

/-- What a JOB emits is read back by a receiver that knows only the wire format (R102, R103): the header gives the body
length, each chunk its payload, the payloads the body, and the body the five command blocks with the raster's fields. -/
def Obligations.JobStreamReadBack : Prop :=
  ∀ s t : State, exec .job s = .next t → t.err = false →
    ∃ (hd : Block) (cs : List Block) (L : Word) (ps : List (List Byte)),
      t.emit = hd :: cs ∧ decode .jobHeader hd = .ok (.wireHeader L, []) ∧ L.toNat = t.bodybuf.length ∧
      ps.length = cs.length ∧ cs.length = Wire.nchunks L.toNat ∧
      (∀ i, i < cs.length → decode (.chunk L.toNat) (cs.getD i []) =
        .ok (if i + 1 = cs.length then .wireChunkLast (BitVec.ofNat 8 i) (ps.getD i [])
             else .wireChunk (BitVec.ofNat 8 i) (ps.getD i []), [])) ∧
      ps.flatten = t.bodybuf ∧
      decodeCommands 5 ps.flatten =
        .ok ([.wireStartJob, .wirePrintData s.width s.height (Wire.pack s.pixbuf), .wireFormFeed, .wireStatus, .wireEnd],
          [])

/-! ### Errors -/

/-- R252: the error action, field by field, and nothing else changes. -/
def Obligations.ErrorAction : Prop :=
  ∀ (s : State) (e : ErrorKind) (op : Byte),
    (s.err = false → FirstError e.code op s (s.raise e op)) ∧
    (s.err = true → s.raise e op = { s with done := false, pending := none, emit := [] })

/-- R253: while ERR = 1, ERRCODE and ERROP stay until CLEAR or reset, and ERR with them; of the execute steps only CLEAR's is
left, so only a PIXIN overflow can raise an error. -/
def Obligations.FirstErrorSticks : Prop :=
  (∀ s t : State, step s = .next t → s.err = true → ¬ s.clears →
    t.err = true ∧ t.errcode = s.errcode ∧ t.errop = s.errop) ∧
  (∀ s t : State, step s = .next t → s.clears → t.err = false ∧ t.errcode = 0 ∧ t.errop = 0) ∧
  ∀ s : State, s.Inv → s.err = true → ∀ w, s.executes w → w = 1

/-- R255: an instruction or a PIXIN write that raises an error has changed nothing but STATUS. -/
def Obligations.ErrorsAreAllOrNothing : Prop :=
  (∀ (i : Instr) (s t : State), s.pending = none → s.emit = [] → s.err = false → exec i s = .next t → t.err = true →
    t = { s with err := true, errcode := t.errcode, errop := t.errop, done := false }) ∧
  ∀ (s t : State) (v : Word), s.err = false → memWrite 0x10 v s = .next t → t.err = true →
    t.pixbuf = s.pixbuf ∧ t = { s with err := true, errcode := 6, errop := 0xFF, done := false }

/-- R256: the first cause in the order IllegalCommand, DimensionMismatch, LengthOverflow, TooManyChunks is the only one
reported, however many hold. -/
def Obligations.ErrorPriority : Prop :=
  ∀ (s : State) (w : Word), s.err = false → s.pending = some w →
    ∃ t, engineStep s = .next t ∧ (t.err = true →
      t.errop = w.extractLsb' 0 8 ∧
      t.errcode =
        if w >>> 8 ≠ 0 ∨ 6 < (w &&& 0xFF).toNat then 5
        else if (w = 3 ∧ s.width.toNat * s.height.toNat ≠ 8 * s.bmpbuf.length) ∨
            (w = 6 ∧ s.width.toNat * s.height.toNat ≠ 8 * ((s.pixbuf.length + 7) / 8)) then 2
        else if (w = 3 ∧ 2 ^ 32 - 1 < 24 + s.bmpbuf.length) ∨
            (w = 6 ∧ 2 ^ 32 - 1 < 24 + (s.pixbuf.length + 7) / 8) then 3
        else 4) ∧
      (t.err = false → (w >>> 8 = 0 ∧ (w &&& 0xFF).toNat ≤ 6) ∧
        (w = 3 → s.width.toNat * s.height.toNat = 8 * s.bmpbuf.length ∧ 24 + s.bmpbuf.length ≤ 2 ^ 32 - 1) ∧
        (w = 5 → s.bodybuf.length ≤ 128000) ∧
        (w = 6 → s.width.toNat * s.height.toNat = 8 * ((s.pixbuf.length + 7) / 8) ∧
          24 + (s.pixbuf.length + 7) / 8 ≤ 128000))

/-- R260: the only steps out of the error state are CLEAR's execute step and hardware reset, and both leave every piece of
state at its reset value. -/
def Obligations.ErrorStateLeftOnlyByClearOrReset : Prop :=
  ∀ s t : State, step s = .next t → s.err = true → (t.err = false ↔ s.clears) ∧ (t.err = false → AtReset t)

/-- R261: an error while ERR = 1 changes only DONE, and only a PIXIN overflow raises one. -/
def Obligations.NestedErrorChangesOnlyDone : Prop :=
  (∀ (s : State) (v : Word), s.err = true → s.busy = false → s.pixbuf.length = s.cfg.pixCap →
    memWrite 0x10 v s = .next { s with done := false }) ∧
  (∀ (s : State) (e : ErrorKind) (op : Byte), s.err = true → s.busy = false → s.raise e op = { s with done := false }) ∧
  ∀ s : State, s.Inv → s.err = true → ∀ w, s.executes w → decodeCmd w = .clear

/-! ### The host's accesses -/

/-- R61: an aligned 32-bit access inside the window is performed; any other access is refused. -/
def Obligations.AccessAdmission : Prop :=
  ∀ (s : State) (addr size : Nat) (v : Word) (rest : List HostStmt),
    ((size = 4 ∧ ∃ off, addr = s.cfg.peeBase + off ∧ off % 4 = 0 ∧ off ≤ 0xFC) →
      (s.prog = .bus (.read addr size) :: rest → hostStep s = .next { s.afterRead (addr - s.cfg.peeBase) with
        results := s.results ++ [s.readValue (addr - s.cfg.peeBase)], prog := rest }) ∧
      (s.prog = .bus (.write addr size v) :: rest →
        hostStep s = memWrite (addr - s.cfg.peeBase) v { s with prog := rest } ∧ ∃ t, hostStep s = .next t)) ∧
    (¬ (size = 4 ∧ ∃ off, addr = s.cfg.peeBase + off ∧ off % 4 = 0 ∧ off ≤ 0xFC) →
      (s.prog = .bus (.read addr size) :: rest ∨ s.prog = .bus (.write addr size v) :: rest) →
      hostStep s = .refused (.accessNotAdmitted addr size))

/-- R62: what a read of each offset returns, and that only a read of OUTDATA changes state. -/
def Obligations.ReadTable : Prop :=
  ∀ s : State,
    s.readValue 0x00 = 0 ∧
    (s.readValue 0x04).toNat = s.errop.toNat * 256 + s.errcode.toNat * 16 + s.ovr.toNat * 8 + s.err.toNat * 4 +
      s.done.toNat * 2 + s.busy.toNat ∧
    s.readValue 0x08 = s.width ∧ s.readValue 0x0C = s.height ∧ s.readValue 0x10 = 0 ∧
    (s.Inv → (s.readValue 0x14).toNat = s.pixbuf.length) ∧
    (s.Inv → (s.readValue 0x18).toNat = s.bmpbuf.length) ∧
    s.readValue 0x1C = s.bodylen ∧ (s.readValue 0x20).toNat = s.csum.toNat ∧
    (s.readValue 0x24).toNat = s.chunkcnt.toNat ∧
    (s.Inv → (s.readValue 0x28).toNat = (s.outfifo.map List.length).sum) ∧
    (s.Inv → (s.readValue 0x2C).toNat = s.outfifo.length) ∧
    s.readValue 0x30 = s.outData ∧ s.afterRead 0x30 = s.popOut ∧
    (∀ off, 0x34 ≤ off → s.readValue off = 0) ∧
    ∀ off, off ≠ 0x30 → s.afterRead off = s

/-- R63, R66, R67: what a write to each offset does. WIDTH, HEIGHT, BODYLEN, PIXIN and CMD writes are ignored while BUSY = 1
and set OVR; a write to a read-only register or a reserved offset has no effect; a read of a write-only register or a
reserved offset returns 0. -/
def Obligations.WriteTable : Prop :=
  ∀ (s : State) (v : Word),
    memWrite 0x00 v s = issue v s ∧
    memWrite 0x08 v s = .next (if s.busy then { s with ovr := true } else { s with width := v }) ∧
    memWrite 0x0C v s = .next (if s.busy then { s with ovr := true } else { s with height := v }) ∧
    memWrite 0x10 v s = .next (s.pixelIn v) ∧
    memWrite 0x1C v s = .next (if s.busy then { s with ovr := true } else { s with bodylen := v }) ∧
    (s.busy = true → memWrite 0x10 v s = .next { s with ovr := true } ∧
      (v ≠ 0 → memWrite 0x00 v s = .next { s with ovr := true })) ∧
    (∀ off, off ∈ [0x04, 0x14, 0x18, 0x20, 0x24, 0x28, 0x2C, 0x30] ∨ (off % 4 = 0 ∧ 0x34 ≤ off ∧ off ≤ 0xFC) →
      memWrite off v s = .next s) ∧
    ∀ off, off ∈ [0x00, 0x10] ∨ (off % 4 = 0 ∧ 0x34 ≤ off ∧ off ≤ 0xFC) → s.readValue off = 0 ∧ s.afterRead off = s

/-- R94, R140: a PIXIN write appends bit 0 of the word, bits 31:1 ignored; it is ignored with OVR while BUSY = 1; a full
buffer raises PixelOverflow with ERROP 0xFF and drops the pixel; the error state accepts pixels. -/
def Obligations.PixelPort : Prop :=
  (∀ (s : State) (v : Word), s.busy = true → memWrite 0x10 v s = .next { s with ovr := true }) ∧
  (∀ (s : State) (v : Word), s.busy = false → s.pixbuf.length < s.cfg.pixCap →
    memWrite 0x10 v s = .next { s with pixbuf := s.pixbuf ++ [v.getLsbD 0] }) ∧
  (∀ (s : State) (v : Word), s.busy = false → s.pixbuf.length = s.cfg.pixCap → s.err = false →
    ∃ t, memWrite 0x10 v s = .next t ∧ FirstError 6 0xFF s t ∧ t.pixbuf = s.pixbuf) ∧
  (∀ (s : State) (v : Word), s.busy = false → s.pixbuf.length = s.cfg.pixCap → s.err = true →
    memWrite 0x10 v s = .next { s with done := false }) ∧
  (∀ (s : State) (v v' : Word), v.getLsbD 0 = v'.getLsbD 0 → memWrite 0x10 v s = memWrite 0x10 v' s) ∧
  ∃ t u, memWrite 0x10 1 State.reset = .next t ∧ memWrite 0x10 0 t = .next u ∧ u.pixbuf = [true, false] ∧
    u.readValue 0x14 = 2

/-- R220: command issue, case by case; an accepted word is not decoded at issue. -/
def Obligations.CommandIssue : Prop :=
  ∀ (s : State) (w : Word),
    issue 0 s = .next s ∧
    (w ≠ 0 → s.busy = true → issue w s = .next { s with ovr := true }) ∧
    (w ≠ 0 → s.busy = false → s.err = true → w ≠ 1 → issue w s = .next s) ∧
    (w ≠ 0 → s.busy = false → (s.err = false ∨ w = 1) →
      ∃ t, issue w s = .next t ∧ t = { s with pending := some w, done := false } ∧ t.busy = true)

/-- R228: an OUTDATA read returns the first unread byte with VALID and, on its block's last byte, LAST, and removes it, and
the byte after a LAST byte begins a block (R95); on an empty OUTFIFO it returns 0 and changes nothing; the rule's example. -/
def Obligations.OutDataRead : Prop :=
  (∀ s : State, s.outfifo = [] → s.readValue 0x30 = 0 ∧ s.afterRead 0x30 = s) ∧
  (∀ (s : State) (b : Byte) (bs : Block) (rest : List Block), s.outfifo = (b :: bs) :: rest →
    (s.readValue 0x30).toNat = 512 + (if bs = [] then 256 else 0) + b.toNat ∧
    ∃ q, s.afterRead 0x30 = { s with outfifo := if bs = [] then rest else bs :: rest, readPlace := q } ∧
      (q = .first ↔ bs = [])) ∧
  (∀ s : State, (s.afterRead 0x30).readValue 0x04 = s.readValue 0x04) ∧
  ∃ t u v, memWrite 0x1C 717 State.reset = .next t ∧ memWrite 0x00 4 t = .next u ∧ engineSteps 2 u = .next v ∧
    outReads 10 v = [0x2FF, 0x2F0, 0x212, 0x234, 0x2CD, 0x202, 0x200, 0x200, 0x304, 0x000]

/-- R71, the read side: OUTDATA gives back the blocks of OUTFIFO in order, byte by byte, LAST at each block's end, and one
read more finds it empty. -/
def Obligations.FifoReadsBackInOrder : Prop :=
  ∀ s : State, (∀ b ∈ s.outfifo, b ≠ []) →
    outReads (s.outLevel + 1) s =
      (s.outfifo.flatMap tagBlock).map (fun p => outDataWord p.1 p.2) ++ [0]

/-! ### The engine and the whole machine -/

/-- A step runs the decoded instruction: an execute step is exec of the pending word with PENDING emptied, a CMD write of 0
is exec of NOP, and an emission step of a wire block is exec of that block's row; and the placed word is the next to run.
Three clauses are about the model's own choices: what exec of a WIRE row is (DESIGN CHOICE, log 6), how withFetchWord places
a word (DESIGN CHOICE, log 4), and that a host program may hold a statement that asserts reset, with CLEAR's effect (DESIGN
CHOICE, log 15). -/
def Obligations.StepRunsTheDecodedInstruction : Prop :=
  (∀ (s : State) (w : Word), s.executes w →
    step s = exec (decodeCmd w) { s with sched := s.sched.tail, pending := none }) ∧
  (∀ s : State, s.hostWrites 0x00 0 → step s = exec .nop { s with sched := s.sched.tail, prog := s.prog.tail }) ∧
  (∀ (s : State) (i : Instr),
    ((∃ L, i = .wireHeader L) ∨ (∃ x p, i = .wireChunk x p) ∨ ∃ x p, i = .wireChunkLast x p) →
    s.emits (encode i) → step s = exec i { s with sched := s.sched.tail }) ∧
  (∀ (s : State) (w : Word), w ≠ 0 →
    step (s.withFetchWord 32 w.toNat) = exec (decodeCmd w) { s with pending := none }) ∧
  (∀ s : State, step (s.withFetchWord 32 0) = exec .nop s) ∧
  ∀ (s : State) (rest : List HostStmt), s.nextAgent = .host → s.prog = .reset :: rest →
    ∃ t, exec .clear s = .next t ∧ step s = .next { t with sched := s.sched.tail, prog := rest }

/-- R226: the emission step: when the engine has it, what it does, the hold when the head block does not fit, which only a
read of OUTDATA lifts (or reset, which is no lifting of it, R290), and that an empty OUTFIFO always has room. -/
def Obligations.EmissionStep : Prop :=
  (∀ (s : State) (b : Block) (rest : List Block), s.pending = none → s.emit = b :: rest →
    b.length + s.outLevel ≤ s.cfg.outCap →
    s.engineEnabled = true ∧
    engineStep s = .next { s with
      outfifo := s.outfifo ++ [b], emit := rest, done := s.done || decide (rest = []) }) ∧
  (∀ (s : State) (b : Block) (rest : List Block), s.pending = none → s.emit = b :: rest →
    s.cfg.outCap < b.length + s.outLevel → s.engineEnabled = false ∧ engineStep s = .next s) ∧
  (∀ s t : State, s.held = true → step s = .next t → t.held = false → s.hostPops ∨ s.resets) ∧
  ∀ s : State, s.Inv → s.pending = none → s.emit ≠ [] → s.outfifo = [] → s.engineEnabled = true

/-- R229: an idle engine has no step, and only a host CMD write that is accepted gives it one. -/
def Obligations.IdleUntilACommandIsAccepted : Prop :=
  (∀ s : State, s.pending = none → s.emit = [] → s.engineEnabled = false ∧ engineStep s = .next s) ∧
  ∀ s t : State, step s = .next t → s.busy = false → t.busy = true →
    ∃ w, s.hostWrites 0x00 w ∧ w ≠ 0 ∧ (s.err = true → w = 1) ∧ t.pending = some w ∧ t.engineEnabled = true

/-- A hold lasts until the host reads OUTDATA or resets (R293, I18): every other step leaves BUSY, EMIT and OUTFIFO as they
are. -/
def Obligations.HoldLastsUntilTheHostReads : Prop :=
  ∀ s t : State, s.held = true → step s = .next t → ¬ s.hostPops → ¬ s.resets →
    t.held = true ∧ t.busy = true ∧ t.emit = s.emit ∧ t.outfifo = s.outfifo ∧ t.pending = none

/-- While a command is pending or emitting, no host step but reset changes what a command reads or has produced (R67, R74):
of the PEE only OVR and, by a read of OUTDATA, OUTFIFO (and the place of the byte read next). -/
def Obligations.RunningCommandSeesFrozenInputs : Prop :=
  ∀ s t : State, s.busy = true → s.nextAgent = .host → step s = .next t → ¬ s.resets →
    t = { s with
      ovr := t.ovr, outfifo := t.outfifo, readPlace := t.readPlace, sched := t.sched, prog := t.prog, results := t.results,
      log := t.log } ∧
    (¬ s.hostPops → t.outfifo = s.outfifo ∧ t.readPlace = s.readPlace)

/-- Which steps may change each data register (WIDTH, HEIGHT, BODYLEN, CSUM, CHUNKCNT: R24..R28), each buffer (PIXBUF,
BMPBUF, BODYBUF, OUTFIFO: R36..R39, R297) and each queue (PENDING, EMIT: R40, R41): every other step keeps it. STATUS stands
in DoneRules, OvrRules and FirstErrorSticks. -/
def Obligations.WhoWritesWhat : Prop :=
  ∀ s t : State, step s = .next t → ¬ s.clears →
    (¬ s.executes 3 → ¬ s.executes 6 → t.bodybuf = s.bodybuf) ∧
    (¬ s.executes 2 → ¬ s.executes 6 → t.bmpbuf = s.bmpbuf) ∧
    ((∀ v, ¬ s.hostWrites 0x10 v) → t.pixbuf = s.pixbuf) ∧
    (∃ extra, t.pixbuf = s.pixbuf ++ extra ∧ extra.length ≤ 1) ∧
    (¬ s.executes 5 → ¬ s.executes 6 → t.chunkcnt = s.chunkcnt) ∧
    (¬ s.executes 3 → ¬ s.executes 6 → (∀ v, ¬ s.hostWrites 0x1C v) → t.bodylen = s.bodylen) ∧
    ((∀ v, ¬ s.hostWrites 0x08 v) → t.width = s.width) ∧
    ((∀ v, ¬ s.hostWrites 0x0C v) → t.height = s.height) ∧
    (¬ s.executes 4 → ¬ s.executes 6 → t.csum = s.csum) ∧
    ((∀ b, ¬ s.emits b) → ¬ s.hostPops → t.outfifo = s.outfifo) ∧
    ((∀ w, ¬ s.executes w) → (∀ w, ¬ s.hostWrites 0x00 w) → t.pending = s.pending) ∧
    ((∀ w, ¬ s.executes w) → (∀ b, ¬ s.emits b) → t.emit = s.emit)

/-- A program of admitted accesses is never refused, and a step that is refused is the host's, at an access R61 does not
admit, which the refusal names. -/
def Obligations.OnlyUnadmittedAccessesAreRefused : Prop :=
  (∀ s : State, s.safeProg = true → ∃ t, step s = .next t ∧ t.safeProg = true) ∧
  ∀ (s : State) (r : Refusal), step s = .refused r →
    ∃ addr size, r = .accessNotAdmitted addr size ∧ admittedOffset s.cfg addr size = none ∧
      (s.hostDoes (.bus (.read addr size)) ∨ ∃ v, s.hostDoes (.bus (.write addr size v)))

/-- R43's invariants with those that support them hold in every start: reset with any parameters, program and schedule. -/
def Obligations.InvariantHoldsAtStart : Prop :=
  State.reset.Start ∧ ∀ s : State, s.Start → s.Inv

/-- Every step keeps the invariant, from every state that has it, and no step changes the parameters. -/
def Obligations.StepKeepsTheInvariant : Prop :=
  ∀ s t : State, s.Inv → step s = .next t → t.Inv ∧ t.cfg = s.cfg

/-- R43: the invariants hold in every reachable state. -/
def Obligations.ReachableStatesAreBounded : Prop :=
  ∀ s : State, Reachable s → s.Bounded

/-- No byte is lost, repeated or reordered on its way out (R71): a step that is no execute step, reset or unlogged read
keeps the stream of logged, queued and waiting bytes, with where each block begins and ends; an execute step other than
CLEAR's only adds its blocks at the end. -/
def Obligations.OutputStreamConserved : Prop :=
  (∀ s t : State, step s = .next t → (∀ w, ¬ s.executes w) → ¬ s.resets → ¬ s.hostPopsUnlogged →
    t.stream = s.stream) ∧
  ∀ (s t : State) (w : Word), s.Inv → step s = .next t → s.executes w → w ≠ 1 →
    t.stream = s.stream ++ markPlace .first (t.emit.flatMap tagBlock)

/-- The loop of `run` ends and logs everything (R107, R293), under the interleaving the model takes where `sched` fixes none
(log 1): from any state of the invariant with nothing pending, OUTFIFO and EMIT end up in the log, in order; and from an
empty record with no block begun, the result's blocks are exactly theirs (R303). -/
def Obligations.DrainLoopEndsWithEverythingLogged : Prop :=
  ∀ s : State, s.Inv → s.pending = none → s.sched = [] → s.prog = [.runPop] →
    ∃ k t, Host.Core.run Sys2Proof.core k s = .next t ∧ t.ended = true ∧ t.log = s.stream ∧
      (s.log = [] → s.readPlace = .first → t.loggedBlocks = s.outfifo ++ s.emit)

/-- The host's log of blocks (R303). A byte is a first byte iff it is the byte after a LAST byte, or the first byte read after
reset or CLEAR (R95). The record's blocks run from a first byte to its LAST byte and hold every byte between: whole blocks
read after any record, one cut off by CLEAR among them, are added to its blocks as they are, and nothing of a block of which a
plain `rd` has taken a byte is joined to any block (the model's choice, log 8). -/
def Obligations.LoggedBlocksRunFromFirstToLast : Prop :=
  (∀ (s t : State) (b : Byte) (bs : Block) (rest : List Block), s.outfifo = (b :: bs) :: rest → s.hostPops →
    step s = .next t →
    (t.readPlace = .first ↔ bs = []) ∧
    (t.readPlace = .next ↔ bs ≠ [] ∧ ¬ s.hostPopsUnlogged ∧ s.readPlace ≠ .gap) ∧
    t.log = s.log ++ if s.hostPopsUnlogged then [] else [⟨b, s.readPlace, decide (bs = [])⟩]) ∧
  (∀ s t : State, step s = .next t →
    (s.clears → t.readPlace = .first) ∧ (¬ s.clears → ¬ s.hostPops → t.readPlace = s.readPlace)) ∧
  (∀ (record : List LogByte) (blocks : List Block), (∀ b ∈ blocks, b ≠ []) →
    splitBlocks none (record ++ markPlace .first (blocks.flatMap tagBlock)) = splitBlocks none record ++ blocks) ∧
  (∀ (record : List LogByte) (tail : Block) (blocks : List Block), tail ≠ [] → (∀ b ∈ blocks, b ≠ []) →
    splitBlocks none (record ++ markPlace .gap (tagBlock tail ++ blocks.flatMap tagBlock)) =
      splitBlocks none record ++ blocks) ∧
  splitBlocks none [⟨0xFF, .first, false⟩, ⟨0x00, .first, false⟩, ⟨0x12, .next, false⟩, ⟨0x34, .next, true⟩]
    = [[0x00, 0x12, 0x34]] ∧
  splitBlocks none [⟨0xFF, .first, false⟩, ⟨0x12, .gap, false⟩, ⟨0x34, .gap, true⟩] = []
end

