-- ==== Sys2Proof/Laws/State.lean ====
section
/-! SUPPORT. For every named update of State, what each field of the result is: true by rfl, for simp, so that no later proof
unfolds a record update. -/

namespace Sys2Proof.Machine

/-! ### State.raise -/

@[simp] theorem State.raise_cfg (s : State) (e : ErrorKind) (op : Byte) : (s.raise e op).cfg = s.cfg := rfl
@[simp] theorem State.raise_done (s : State) (e : ErrorKind) (op : Byte) : (s.raise e op).done = false := rfl
@[simp] theorem State.raise_err (s : State) (e : ErrorKind) (op : Byte) : (s.raise e op).err = true := rfl
@[simp] theorem State.raise_ovr (s : State) (e : ErrorKind) (op : Byte) : (s.raise e op).ovr = s.ovr := rfl
@[simp] theorem State.raise_errcode (s : State) (e : ErrorKind) (op : Byte) : (s.raise e op).errcode = if s.err then s.errcode else e.code := rfl
@[simp] theorem State.raise_errop (s : State) (e : ErrorKind) (op : Byte) : (s.raise e op).errop = if s.err then s.errop else op := rfl
@[simp] theorem State.raise_width (s : State) (e : ErrorKind) (op : Byte) : (s.raise e op).width = s.width := rfl
@[simp] theorem State.raise_height (s : State) (e : ErrorKind) (op : Byte) : (s.raise e op).height = s.height := rfl
@[simp] theorem State.raise_bodylen (s : State) (e : ErrorKind) (op : Byte) : (s.raise e op).bodylen = s.bodylen := rfl
@[simp] theorem State.raise_csum (s : State) (e : ErrorKind) (op : Byte) : (s.raise e op).csum = s.csum := rfl
@[simp] theorem State.raise_chunkcnt (s : State) (e : ErrorKind) (op : Byte) : (s.raise e op).chunkcnt = s.chunkcnt := rfl
@[simp] theorem State.raise_pixbuf (s : State) (e : ErrorKind) (op : Byte) : (s.raise e op).pixbuf = s.pixbuf := rfl
@[simp] theorem State.raise_bmpbuf (s : State) (e : ErrorKind) (op : Byte) : (s.raise e op).bmpbuf = s.bmpbuf := rfl
@[simp] theorem State.raise_bodybuf (s : State) (e : ErrorKind) (op : Byte) : (s.raise e op).bodybuf = s.bodybuf := rfl
@[simp] theorem State.raise_outfifo (s : State) (e : ErrorKind) (op : Byte) : (s.raise e op).outfifo = s.outfifo := rfl
@[simp] theorem State.raise_readPlace (s : State) (e : ErrorKind) (op : Byte) : (s.raise e op).readPlace = s.readPlace := rfl
@[simp] theorem State.raise_pending (s : State) (e : ErrorKind) (op : Byte) : (s.raise e op).pending = none := rfl
@[simp] theorem State.raise_emit (s : State) (e : ErrorKind) (op : Byte) : (s.raise e op).emit = [] := rfl
@[simp] theorem State.raise_sched (s : State) (e : ErrorKind) (op : Byte) : (s.raise e op).sched = s.sched := rfl
@[simp] theorem State.raise_prog (s : State) (e : ErrorKind) (op : Byte) : (s.raise e op).prog = s.prog := rfl
@[simp] theorem State.raise_results (s : State) (e : ErrorKind) (op : Byte) : (s.raise e op).results = s.results := rfl
@[simp] theorem State.raise_log (s : State) (e : ErrorKind) (op : Byte) : (s.raise e op).log = s.log := rfl

/-! ### State.clear -/

@[simp] theorem State.clear_cfg (s : State) : (s.clear).cfg = s.cfg := rfl
@[simp] theorem State.clear_done (s : State) : (s.clear).done = false := rfl
@[simp] theorem State.clear_err (s : State) : (s.clear).err = false := rfl
@[simp] theorem State.clear_ovr (s : State) : (s.clear).ovr = false := rfl
@[simp] theorem State.clear_errcode (s : State) : (s.clear).errcode = 0 := rfl
@[simp] theorem State.clear_errop (s : State) : (s.clear).errop = 0 := rfl
@[simp] theorem State.clear_width (s : State) : (s.clear).width = 0 := rfl
@[simp] theorem State.clear_height (s : State) : (s.clear).height = 0 := rfl
@[simp] theorem State.clear_bodylen (s : State) : (s.clear).bodylen = 0 := rfl
@[simp] theorem State.clear_csum (s : State) : (s.clear).csum = 0 := rfl
@[simp] theorem State.clear_chunkcnt (s : State) : (s.clear).chunkcnt = 0 := rfl
@[simp] theorem State.clear_pixbuf (s : State) : (s.clear).pixbuf = [] := rfl
@[simp] theorem State.clear_bmpbuf (s : State) : (s.clear).bmpbuf = [] := rfl
@[simp] theorem State.clear_bodybuf (s : State) : (s.clear).bodybuf = [] := rfl
@[simp] theorem State.clear_outfifo (s : State) : (s.clear).outfifo = [] := rfl
@[simp] theorem State.clear_readPlace (s : State) : (s.clear).readPlace = .first := rfl
@[simp] theorem State.clear_pending (s : State) : (s.clear).pending = none := rfl
@[simp] theorem State.clear_emit (s : State) : (s.clear).emit = [] := rfl
@[simp] theorem State.clear_sched (s : State) : (s.clear).sched = s.sched := rfl
@[simp] theorem State.clear_prog (s : State) : (s.clear).prog = s.prog := rfl
@[simp] theorem State.clear_results (s : State) : (s.clear).results = s.results := rfl
@[simp] theorem State.clear_log (s : State) : (s.clear).log = s.log := rfl

/-! ### State.complete -/

@[simp] theorem State.complete_cfg (s : State) : (s.complete).cfg = s.cfg := rfl
@[simp] theorem State.complete_done (s : State) : (s.complete).done = (s.done || s.emit.isEmpty) := rfl
@[simp] theorem State.complete_err (s : State) : (s.complete).err = s.err := rfl
@[simp] theorem State.complete_ovr (s : State) : (s.complete).ovr = s.ovr := rfl
@[simp] theorem State.complete_errcode (s : State) : (s.complete).errcode = s.errcode := rfl
@[simp] theorem State.complete_errop (s : State) : (s.complete).errop = s.errop := rfl
@[simp] theorem State.complete_width (s : State) : (s.complete).width = s.width := rfl
@[simp] theorem State.complete_height (s : State) : (s.complete).height = s.height := rfl
@[simp] theorem State.complete_bodylen (s : State) : (s.complete).bodylen = s.bodylen := rfl
@[simp] theorem State.complete_csum (s : State) : (s.complete).csum = s.csum := rfl
@[simp] theorem State.complete_chunkcnt (s : State) : (s.complete).chunkcnt = s.chunkcnt := rfl
@[simp] theorem State.complete_pixbuf (s : State) : (s.complete).pixbuf = s.pixbuf := rfl
@[simp] theorem State.complete_bmpbuf (s : State) : (s.complete).bmpbuf = s.bmpbuf := rfl
@[simp] theorem State.complete_bodybuf (s : State) : (s.complete).bodybuf = s.bodybuf := rfl
@[simp] theorem State.complete_outfifo (s : State) : (s.complete).outfifo = s.outfifo := rfl
@[simp] theorem State.complete_readPlace (s : State) : (s.complete).readPlace = s.readPlace := rfl
@[simp] theorem State.complete_pending (s : State) : (s.complete).pending = s.pending := rfl
@[simp] theorem State.complete_emit (s : State) : (s.complete).emit = s.emit := rfl
@[simp] theorem State.complete_sched (s : State) : (s.complete).sched = s.sched := rfl
@[simp] theorem State.complete_prog (s : State) : (s.complete).prog = s.prog := rfl
@[simp] theorem State.complete_results (s : State) : (s.complete).results = s.results := rfl
@[simp] theorem State.complete_log (s : State) : (s.complete).log = s.log := rfl

/-! ### State.setOvr -/

@[simp] theorem State.setOvr_cfg (s : State) : (s.setOvr).cfg = s.cfg := rfl
@[simp] theorem State.setOvr_done (s : State) : (s.setOvr).done = s.done := rfl
@[simp] theorem State.setOvr_err (s : State) : (s.setOvr).err = s.err := rfl
@[simp] theorem State.setOvr_ovr (s : State) : (s.setOvr).ovr = true := rfl
@[simp] theorem State.setOvr_errcode (s : State) : (s.setOvr).errcode = s.errcode := rfl
@[simp] theorem State.setOvr_errop (s : State) : (s.setOvr).errop = s.errop := rfl
@[simp] theorem State.setOvr_width (s : State) : (s.setOvr).width = s.width := rfl
@[simp] theorem State.setOvr_height (s : State) : (s.setOvr).height = s.height := rfl
@[simp] theorem State.setOvr_bodylen (s : State) : (s.setOvr).bodylen = s.bodylen := rfl
@[simp] theorem State.setOvr_csum (s : State) : (s.setOvr).csum = s.csum := rfl
@[simp] theorem State.setOvr_chunkcnt (s : State) : (s.setOvr).chunkcnt = s.chunkcnt := rfl
@[simp] theorem State.setOvr_pixbuf (s : State) : (s.setOvr).pixbuf = s.pixbuf := rfl
@[simp] theorem State.setOvr_bmpbuf (s : State) : (s.setOvr).bmpbuf = s.bmpbuf := rfl
@[simp] theorem State.setOvr_bodybuf (s : State) : (s.setOvr).bodybuf = s.bodybuf := rfl
@[simp] theorem State.setOvr_outfifo (s : State) : (s.setOvr).outfifo = s.outfifo := rfl
@[simp] theorem State.setOvr_readPlace (s : State) : (s.setOvr).readPlace = s.readPlace := rfl
@[simp] theorem State.setOvr_pending (s : State) : (s.setOvr).pending = s.pending := rfl
@[simp] theorem State.setOvr_emit (s : State) : (s.setOvr).emit = s.emit := rfl
@[simp] theorem State.setOvr_sched (s : State) : (s.setOvr).sched = s.sched := rfl
@[simp] theorem State.setOvr_prog (s : State) : (s.setOvr).prog = s.prog := rfl
@[simp] theorem State.setOvr_results (s : State) : (s.setOvr).results = s.results := rfl
@[simp] theorem State.setOvr_log (s : State) : (s.setOvr).log = s.log := rfl

/-! ### State.setEmit -/

@[simp] theorem State.setEmit_cfg (s : State) (bs : List Block) : (s.setEmit bs).cfg = s.cfg := rfl
@[simp] theorem State.setEmit_done (s : State) (bs : List Block) : (s.setEmit bs).done = s.done := rfl
@[simp] theorem State.setEmit_err (s : State) (bs : List Block) : (s.setEmit bs).err = s.err := rfl
@[simp] theorem State.setEmit_ovr (s : State) (bs : List Block) : (s.setEmit bs).ovr = s.ovr := rfl
@[simp] theorem State.setEmit_errcode (s : State) (bs : List Block) : (s.setEmit bs).errcode = s.errcode := rfl
@[simp] theorem State.setEmit_errop (s : State) (bs : List Block) : (s.setEmit bs).errop = s.errop := rfl
@[simp] theorem State.setEmit_width (s : State) (bs : List Block) : (s.setEmit bs).width = s.width := rfl
@[simp] theorem State.setEmit_height (s : State) (bs : List Block) : (s.setEmit bs).height = s.height := rfl
@[simp] theorem State.setEmit_bodylen (s : State) (bs : List Block) : (s.setEmit bs).bodylen = s.bodylen := rfl
@[simp] theorem State.setEmit_csum (s : State) (bs : List Block) : (s.setEmit bs).csum = s.csum := rfl
@[simp] theorem State.setEmit_chunkcnt (s : State) (bs : List Block) : (s.setEmit bs).chunkcnt = s.chunkcnt := rfl
@[simp] theorem State.setEmit_pixbuf (s : State) (bs : List Block) : (s.setEmit bs).pixbuf = s.pixbuf := rfl
@[simp] theorem State.setEmit_bmpbuf (s : State) (bs : List Block) : (s.setEmit bs).bmpbuf = s.bmpbuf := rfl
@[simp] theorem State.setEmit_bodybuf (s : State) (bs : List Block) : (s.setEmit bs).bodybuf = s.bodybuf := rfl
@[simp] theorem State.setEmit_outfifo (s : State) (bs : List Block) : (s.setEmit bs).outfifo = s.outfifo := rfl
@[simp] theorem State.setEmit_readPlace (s : State) (bs : List Block) : (s.setEmit bs).readPlace = s.readPlace := rfl
@[simp] theorem State.setEmit_pending (s : State) (bs : List Block) : (s.setEmit bs).pending = s.pending := rfl
@[simp] theorem State.setEmit_emit (s : State) (bs : List Block) : (s.setEmit bs).emit = bs := rfl
@[simp] theorem State.setEmit_sched (s : State) (bs : List Block) : (s.setEmit bs).sched = s.sched := rfl
@[simp] theorem State.setEmit_prog (s : State) (bs : List Block) : (s.setEmit bs).prog = s.prog := rfl
@[simp] theorem State.setEmit_results (s : State) (bs : List Block) : (s.setEmit bs).results = s.results := rfl
@[simp] theorem State.setEmit_log (s : State) (bs : List Block) : (s.setEmit bs).log = s.log := rfl

/-! ### State.emitHead -/

@[simp] theorem State.emitHead_cfg (s : State) (b : Block) (rest : List Block) : (s.emitHead b rest).cfg = s.cfg := rfl
@[simp] theorem State.emitHead_done (s : State) (b : Block) (rest : List Block) : (s.emitHead b rest).done = (s.done || rest.isEmpty) := rfl
@[simp] theorem State.emitHead_err (s : State) (b : Block) (rest : List Block) : (s.emitHead b rest).err = s.err := rfl
@[simp] theorem State.emitHead_ovr (s : State) (b : Block) (rest : List Block) : (s.emitHead b rest).ovr = s.ovr := rfl
@[simp] theorem State.emitHead_errcode (s : State) (b : Block) (rest : List Block) : (s.emitHead b rest).errcode = s.errcode := rfl
@[simp] theorem State.emitHead_errop (s : State) (b : Block) (rest : List Block) : (s.emitHead b rest).errop = s.errop := rfl
@[simp] theorem State.emitHead_width (s : State) (b : Block) (rest : List Block) : (s.emitHead b rest).width = s.width := rfl
@[simp] theorem State.emitHead_height (s : State) (b : Block) (rest : List Block) : (s.emitHead b rest).height = s.height := rfl
@[simp] theorem State.emitHead_bodylen (s : State) (b : Block) (rest : List Block) : (s.emitHead b rest).bodylen = s.bodylen := rfl
@[simp] theorem State.emitHead_csum (s : State) (b : Block) (rest : List Block) : (s.emitHead b rest).csum = s.csum := rfl
@[simp] theorem State.emitHead_chunkcnt (s : State) (b : Block) (rest : List Block) : (s.emitHead b rest).chunkcnt = s.chunkcnt := rfl
@[simp] theorem State.emitHead_pixbuf (s : State) (b : Block) (rest : List Block) : (s.emitHead b rest).pixbuf = s.pixbuf := rfl
@[simp] theorem State.emitHead_bmpbuf (s : State) (b : Block) (rest : List Block) : (s.emitHead b rest).bmpbuf = s.bmpbuf := rfl
@[simp] theorem State.emitHead_bodybuf (s : State) (b : Block) (rest : List Block) : (s.emitHead b rest).bodybuf = s.bodybuf := rfl
@[simp] theorem State.emitHead_outfifo (s : State) (b : Block) (rest : List Block) : (s.emitHead b rest).outfifo = s.outfifo ++ [b] := rfl
@[simp] theorem State.emitHead_readPlace (s : State) (b : Block) (rest : List Block) : (s.emitHead b rest).readPlace = s.readPlace := rfl
@[simp] theorem State.emitHead_pending (s : State) (b : Block) (rest : List Block) : (s.emitHead b rest).pending = s.pending := rfl
@[simp] theorem State.emitHead_emit (s : State) (b : Block) (rest : List Block) : (s.emitHead b rest).emit = rest := rfl
@[simp] theorem State.emitHead_sched (s : State) (b : Block) (rest : List Block) : (s.emitHead b rest).sched = s.sched := rfl
@[simp] theorem State.emitHead_prog (s : State) (b : Block) (rest : List Block) : (s.emitHead b rest).prog = s.prog := rfl
@[simp] theorem State.emitHead_results (s : State) (b : Block) (rest : List Block) : (s.emitHead b rest).results = s.results := rfl
@[simp] theorem State.emitHead_log (s : State) (b : Block) (rest : List Block) : (s.emitHead b rest).log = s.log := rfl

/-! ### State.accept -/

@[simp] theorem State.accept_cfg (s : State) (w : Word) : (s.accept w).cfg = s.cfg := rfl
@[simp] theorem State.accept_done (s : State) (w : Word) : (s.accept w).done = false := rfl
@[simp] theorem State.accept_err (s : State) (w : Word) : (s.accept w).err = s.err := rfl
@[simp] theorem State.accept_ovr (s : State) (w : Word) : (s.accept w).ovr = s.ovr := rfl
@[simp] theorem State.accept_errcode (s : State) (w : Word) : (s.accept w).errcode = s.errcode := rfl
@[simp] theorem State.accept_errop (s : State) (w : Word) : (s.accept w).errop = s.errop := rfl
@[simp] theorem State.accept_width (s : State) (w : Word) : (s.accept w).width = s.width := rfl
@[simp] theorem State.accept_height (s : State) (w : Word) : (s.accept w).height = s.height := rfl
@[simp] theorem State.accept_bodylen (s : State) (w : Word) : (s.accept w).bodylen = s.bodylen := rfl
@[simp] theorem State.accept_csum (s : State) (w : Word) : (s.accept w).csum = s.csum := rfl
@[simp] theorem State.accept_chunkcnt (s : State) (w : Word) : (s.accept w).chunkcnt = s.chunkcnt := rfl
@[simp] theorem State.accept_pixbuf (s : State) (w : Word) : (s.accept w).pixbuf = s.pixbuf := rfl
@[simp] theorem State.accept_bmpbuf (s : State) (w : Word) : (s.accept w).bmpbuf = s.bmpbuf := rfl
@[simp] theorem State.accept_bodybuf (s : State) (w : Word) : (s.accept w).bodybuf = s.bodybuf := rfl
@[simp] theorem State.accept_outfifo (s : State) (w : Word) : (s.accept w).outfifo = s.outfifo := rfl
@[simp] theorem State.accept_readPlace (s : State) (w : Word) : (s.accept w).readPlace = s.readPlace := rfl
@[simp] theorem State.accept_pending (s : State) (w : Word) : (s.accept w).pending = some w := rfl
@[simp] theorem State.accept_emit (s : State) (w : Word) : (s.accept w).emit = s.emit := rfl
@[simp] theorem State.accept_sched (s : State) (w : Word) : (s.accept w).sched = s.sched := rfl
@[simp] theorem State.accept_prog (s : State) (w : Word) : (s.accept w).prog = s.prog := rfl
@[simp] theorem State.accept_results (s : State) (w : Word) : (s.accept w).results = s.results := rfl
@[simp] theorem State.accept_log (s : State) (w : Word) : (s.accept w).log = s.log := rfl

/-! ### State.appendPixel -/

@[simp] theorem State.appendPixel_cfg (s : State) (p : Bool) : (s.appendPixel p).cfg = s.cfg := rfl
@[simp] theorem State.appendPixel_done (s : State) (p : Bool) : (s.appendPixel p).done = s.done := rfl
@[simp] theorem State.appendPixel_err (s : State) (p : Bool) : (s.appendPixel p).err = s.err := rfl
@[simp] theorem State.appendPixel_ovr (s : State) (p : Bool) : (s.appendPixel p).ovr = s.ovr := rfl
@[simp] theorem State.appendPixel_errcode (s : State) (p : Bool) : (s.appendPixel p).errcode = s.errcode := rfl
@[simp] theorem State.appendPixel_errop (s : State) (p : Bool) : (s.appendPixel p).errop = s.errop := rfl
@[simp] theorem State.appendPixel_width (s : State) (p : Bool) : (s.appendPixel p).width = s.width := rfl
@[simp] theorem State.appendPixel_height (s : State) (p : Bool) : (s.appendPixel p).height = s.height := rfl
@[simp] theorem State.appendPixel_bodylen (s : State) (p : Bool) : (s.appendPixel p).bodylen = s.bodylen := rfl
@[simp] theorem State.appendPixel_csum (s : State) (p : Bool) : (s.appendPixel p).csum = s.csum := rfl
@[simp] theorem State.appendPixel_chunkcnt (s : State) (p : Bool) : (s.appendPixel p).chunkcnt = s.chunkcnt := rfl
@[simp] theorem State.appendPixel_pixbuf (s : State) (p : Bool) : (s.appendPixel p).pixbuf = s.pixbuf ++ [p] := rfl
@[simp] theorem State.appendPixel_bmpbuf (s : State) (p : Bool) : (s.appendPixel p).bmpbuf = s.bmpbuf := rfl
@[simp] theorem State.appendPixel_bodybuf (s : State) (p : Bool) : (s.appendPixel p).bodybuf = s.bodybuf := rfl
@[simp] theorem State.appendPixel_outfifo (s : State) (p : Bool) : (s.appendPixel p).outfifo = s.outfifo := rfl
@[simp] theorem State.appendPixel_readPlace (s : State) (p : Bool) : (s.appendPixel p).readPlace = s.readPlace := rfl
@[simp] theorem State.appendPixel_pending (s : State) (p : Bool) : (s.appendPixel p).pending = s.pending := rfl
@[simp] theorem State.appendPixel_emit (s : State) (p : Bool) : (s.appendPixel p).emit = s.emit := rfl
@[simp] theorem State.appendPixel_sched (s : State) (p : Bool) : (s.appendPixel p).sched = s.sched := rfl
@[simp] theorem State.appendPixel_prog (s : State) (p : Bool) : (s.appendPixel p).prog = s.prog := rfl
@[simp] theorem State.appendPixel_results (s : State) (p : Bool) : (s.appendPixel p).results = s.results := rfl
@[simp] theorem State.appendPixel_log (s : State) (p : Bool) : (s.appendPixel p).log = s.log := rfl

/-! ### State.appendBody -/

@[simp] theorem State.appendBody_cfg (s : State) (b : Block) : (s.appendBody b).cfg = s.cfg := rfl
@[simp] theorem State.appendBody_done (s : State) (b : Block) : (s.appendBody b).done = s.done := rfl
@[simp] theorem State.appendBody_err (s : State) (b : Block) : (s.appendBody b).err = s.err := rfl
@[simp] theorem State.appendBody_ovr (s : State) (b : Block) : (s.appendBody b).ovr = s.ovr := rfl
@[simp] theorem State.appendBody_errcode (s : State) (b : Block) : (s.appendBody b).errcode = s.errcode := rfl
@[simp] theorem State.appendBody_errop (s : State) (b : Block) : (s.appendBody b).errop = s.errop := rfl
@[simp] theorem State.appendBody_width (s : State) (b : Block) : (s.appendBody b).width = s.width := rfl
@[simp] theorem State.appendBody_height (s : State) (b : Block) : (s.appendBody b).height = s.height := rfl
@[simp] theorem State.appendBody_bodylen (s : State) (b : Block) : (s.appendBody b).bodylen = s.bodylen := rfl
@[simp] theorem State.appendBody_csum (s : State) (b : Block) : (s.appendBody b).csum = s.csum := rfl
@[simp] theorem State.appendBody_chunkcnt (s : State) (b : Block) : (s.appendBody b).chunkcnt = s.chunkcnt := rfl
@[simp] theorem State.appendBody_pixbuf (s : State) (b : Block) : (s.appendBody b).pixbuf = s.pixbuf := rfl
@[simp] theorem State.appendBody_bmpbuf (s : State) (b : Block) : (s.appendBody b).bmpbuf = s.bmpbuf := rfl
@[simp] theorem State.appendBody_bodybuf (s : State) (b : Block) : (s.appendBody b).bodybuf = s.bodybuf ++ b := rfl
@[simp] theorem State.appendBody_outfifo (s : State) (b : Block) : (s.appendBody b).outfifo = s.outfifo := rfl
@[simp] theorem State.appendBody_readPlace (s : State) (b : Block) : (s.appendBody b).readPlace = s.readPlace := rfl
@[simp] theorem State.appendBody_pending (s : State) (b : Block) : (s.appendBody b).pending = s.pending := rfl
@[simp] theorem State.appendBody_emit (s : State) (b : Block) : (s.appendBody b).emit = s.emit := rfl
@[simp] theorem State.appendBody_sched (s : State) (b : Block) : (s.appendBody b).sched = s.sched := rfl
@[simp] theorem State.appendBody_prog (s : State) (b : Block) : (s.appendBody b).prog = s.prog := rfl
@[simp] theorem State.appendBody_results (s : State) (b : Block) : (s.appendBody b).results = s.results := rfl
@[simp] theorem State.appendBody_log (s : State) (b : Block) : (s.appendBody b).log = s.log := rfl

/-! ### State.setBmpbuf -/

@[simp] theorem State.setBmpbuf_cfg (s : State) (bm : List Byte) : (s.setBmpbuf bm).cfg = s.cfg := rfl
@[simp] theorem State.setBmpbuf_done (s : State) (bm : List Byte) : (s.setBmpbuf bm).done = s.done := rfl
@[simp] theorem State.setBmpbuf_err (s : State) (bm : List Byte) : (s.setBmpbuf bm).err = s.err := rfl
@[simp] theorem State.setBmpbuf_ovr (s : State) (bm : List Byte) : (s.setBmpbuf bm).ovr = s.ovr := rfl
@[simp] theorem State.setBmpbuf_errcode (s : State) (bm : List Byte) : (s.setBmpbuf bm).errcode = s.errcode := rfl
@[simp] theorem State.setBmpbuf_errop (s : State) (bm : List Byte) : (s.setBmpbuf bm).errop = s.errop := rfl
@[simp] theorem State.setBmpbuf_width (s : State) (bm : List Byte) : (s.setBmpbuf bm).width = s.width := rfl
@[simp] theorem State.setBmpbuf_height (s : State) (bm : List Byte) : (s.setBmpbuf bm).height = s.height := rfl
@[simp] theorem State.setBmpbuf_bodylen (s : State) (bm : List Byte) : (s.setBmpbuf bm).bodylen = s.bodylen := rfl
@[simp] theorem State.setBmpbuf_csum (s : State) (bm : List Byte) : (s.setBmpbuf bm).csum = s.csum := rfl
@[simp] theorem State.setBmpbuf_chunkcnt (s : State) (bm : List Byte) : (s.setBmpbuf bm).chunkcnt = s.chunkcnt := rfl
@[simp] theorem State.setBmpbuf_pixbuf (s : State) (bm : List Byte) : (s.setBmpbuf bm).pixbuf = s.pixbuf := rfl
@[simp] theorem State.setBmpbuf_bmpbuf (s : State) (bm : List Byte) : (s.setBmpbuf bm).bmpbuf = bm := rfl
@[simp] theorem State.setBmpbuf_bodybuf (s : State) (bm : List Byte) : (s.setBmpbuf bm).bodybuf = s.bodybuf := rfl
@[simp] theorem State.setBmpbuf_outfifo (s : State) (bm : List Byte) : (s.setBmpbuf bm).outfifo = s.outfifo := rfl
@[simp] theorem State.setBmpbuf_readPlace (s : State) (bm : List Byte) : (s.setBmpbuf bm).readPlace = s.readPlace := rfl
@[simp] theorem State.setBmpbuf_pending (s : State) (bm : List Byte) : (s.setBmpbuf bm).pending = s.pending := rfl
@[simp] theorem State.setBmpbuf_emit (s : State) (bm : List Byte) : (s.setBmpbuf bm).emit = s.emit := rfl
@[simp] theorem State.setBmpbuf_sched (s : State) (bm : List Byte) : (s.setBmpbuf bm).sched = s.sched := rfl
@[simp] theorem State.setBmpbuf_prog (s : State) (bm : List Byte) : (s.setBmpbuf bm).prog = s.prog := rfl
@[simp] theorem State.setBmpbuf_results (s : State) (bm : List Byte) : (s.setBmpbuf bm).results = s.results := rfl
@[simp] theorem State.setBmpbuf_log (s : State) (bm : List Byte) : (s.setBmpbuf bm).log = s.log := rfl

/-! ### State.setBody -/

@[simp] theorem State.setBody_cfg (s : State) (B : List Byte) : (s.setBody B).cfg = s.cfg := rfl
@[simp] theorem State.setBody_done (s : State) (B : List Byte) : (s.setBody B).done = s.done := rfl
@[simp] theorem State.setBody_err (s : State) (B : List Byte) : (s.setBody B).err = s.err := rfl
@[simp] theorem State.setBody_ovr (s : State) (B : List Byte) : (s.setBody B).ovr = s.ovr := rfl
@[simp] theorem State.setBody_errcode (s : State) (B : List Byte) : (s.setBody B).errcode = s.errcode := rfl
@[simp] theorem State.setBody_errop (s : State) (B : List Byte) : (s.setBody B).errop = s.errop := rfl
@[simp] theorem State.setBody_width (s : State) (B : List Byte) : (s.setBody B).width = s.width := rfl
@[simp] theorem State.setBody_height (s : State) (B : List Byte) : (s.setBody B).height = s.height := rfl
@[simp] theorem State.setBody_bodylen (s : State) (B : List Byte) : (s.setBody B).bodylen = BitVec.ofNat 32 B.length := rfl
@[simp] theorem State.setBody_csum (s : State) (B : List Byte) : (s.setBody B).csum = s.csum := rfl
@[simp] theorem State.setBody_chunkcnt (s : State) (B : List Byte) : (s.setBody B).chunkcnt = s.chunkcnt := rfl
@[simp] theorem State.setBody_pixbuf (s : State) (B : List Byte) : (s.setBody B).pixbuf = s.pixbuf := rfl
@[simp] theorem State.setBody_bmpbuf (s : State) (B : List Byte) : (s.setBody B).bmpbuf = s.bmpbuf := rfl
@[simp] theorem State.setBody_bodybuf (s : State) (B : List Byte) : (s.setBody B).bodybuf = B := rfl
@[simp] theorem State.setBody_outfifo (s : State) (B : List Byte) : (s.setBody B).outfifo = s.outfifo := rfl
@[simp] theorem State.setBody_readPlace (s : State) (B : List Byte) : (s.setBody B).readPlace = s.readPlace := rfl
@[simp] theorem State.setBody_pending (s : State) (B : List Byte) : (s.setBody B).pending = s.pending := rfl
@[simp] theorem State.setBody_emit (s : State) (B : List Byte) : (s.setBody B).emit = s.emit := rfl
@[simp] theorem State.setBody_sched (s : State) (B : List Byte) : (s.setBody B).sched = s.sched := rfl
@[simp] theorem State.setBody_prog (s : State) (B : List Byte) : (s.setBody B).prog = s.prog := rfl
@[simp] theorem State.setBody_results (s : State) (B : List Byte) : (s.setBody B).results = s.results := rfl
@[simp] theorem State.setBody_log (s : State) (B : List Byte) : (s.setBody B).log = s.log := rfl

/-! ### State.setCsum -/

@[simp] theorem State.setCsum_cfg (s : State) (c : Byte) : (s.setCsum c).cfg = s.cfg := rfl
@[simp] theorem State.setCsum_done (s : State) (c : Byte) : (s.setCsum c).done = s.done := rfl
@[simp] theorem State.setCsum_err (s : State) (c : Byte) : (s.setCsum c).err = s.err := rfl
@[simp] theorem State.setCsum_ovr (s : State) (c : Byte) : (s.setCsum c).ovr = s.ovr := rfl
@[simp] theorem State.setCsum_errcode (s : State) (c : Byte) : (s.setCsum c).errcode = s.errcode := rfl
@[simp] theorem State.setCsum_errop (s : State) (c : Byte) : (s.setCsum c).errop = s.errop := rfl
@[simp] theorem State.setCsum_width (s : State) (c : Byte) : (s.setCsum c).width = s.width := rfl
@[simp] theorem State.setCsum_height (s : State) (c : Byte) : (s.setCsum c).height = s.height := rfl
@[simp] theorem State.setCsum_bodylen (s : State) (c : Byte) : (s.setCsum c).bodylen = s.bodylen := rfl
@[simp] theorem State.setCsum_csum (s : State) (c : Byte) : (s.setCsum c).csum = c := rfl
@[simp] theorem State.setCsum_chunkcnt (s : State) (c : Byte) : (s.setCsum c).chunkcnt = s.chunkcnt := rfl
@[simp] theorem State.setCsum_pixbuf (s : State) (c : Byte) : (s.setCsum c).pixbuf = s.pixbuf := rfl
@[simp] theorem State.setCsum_bmpbuf (s : State) (c : Byte) : (s.setCsum c).bmpbuf = s.bmpbuf := rfl
@[simp] theorem State.setCsum_bodybuf (s : State) (c : Byte) : (s.setCsum c).bodybuf = s.bodybuf := rfl
@[simp] theorem State.setCsum_outfifo (s : State) (c : Byte) : (s.setCsum c).outfifo = s.outfifo := rfl
@[simp] theorem State.setCsum_readPlace (s : State) (c : Byte) : (s.setCsum c).readPlace = s.readPlace := rfl
@[simp] theorem State.setCsum_pending (s : State) (c : Byte) : (s.setCsum c).pending = s.pending := rfl
@[simp] theorem State.setCsum_emit (s : State) (c : Byte) : (s.setCsum c).emit = s.emit := rfl
@[simp] theorem State.setCsum_sched (s : State) (c : Byte) : (s.setCsum c).sched = s.sched := rfl
@[simp] theorem State.setCsum_prog (s : State) (c : Byte) : (s.setCsum c).prog = s.prog := rfl
@[simp] theorem State.setCsum_results (s : State) (c : Byte) : (s.setCsum c).results = s.results := rfl
@[simp] theorem State.setCsum_log (s : State) (c : Byte) : (s.setCsum c).log = s.log := rfl

/-! ### State.setChunkcnt -/

@[simp] theorem State.setChunkcnt_cfg (s : State) (n : Nat) : (s.setChunkcnt n).cfg = s.cfg := rfl
@[simp] theorem State.setChunkcnt_done (s : State) (n : Nat) : (s.setChunkcnt n).done = s.done := rfl
@[simp] theorem State.setChunkcnt_err (s : State) (n : Nat) : (s.setChunkcnt n).err = s.err := rfl
@[simp] theorem State.setChunkcnt_ovr (s : State) (n : Nat) : (s.setChunkcnt n).ovr = s.ovr := rfl
@[simp] theorem State.setChunkcnt_errcode (s : State) (n : Nat) : (s.setChunkcnt n).errcode = s.errcode := rfl
@[simp] theorem State.setChunkcnt_errop (s : State) (n : Nat) : (s.setChunkcnt n).errop = s.errop := rfl
@[simp] theorem State.setChunkcnt_width (s : State) (n : Nat) : (s.setChunkcnt n).width = s.width := rfl
@[simp] theorem State.setChunkcnt_height (s : State) (n : Nat) : (s.setChunkcnt n).height = s.height := rfl
@[simp] theorem State.setChunkcnt_bodylen (s : State) (n : Nat) : (s.setChunkcnt n).bodylen = s.bodylen := rfl
@[simp] theorem State.setChunkcnt_csum (s : State) (n : Nat) : (s.setChunkcnt n).csum = s.csum := rfl
@[simp] theorem State.setChunkcnt_chunkcnt (s : State) (n : Nat) : (s.setChunkcnt n).chunkcnt = BitVec.ofNat 9 n := rfl
@[simp] theorem State.setChunkcnt_pixbuf (s : State) (n : Nat) : (s.setChunkcnt n).pixbuf = s.pixbuf := rfl
@[simp] theorem State.setChunkcnt_bmpbuf (s : State) (n : Nat) : (s.setChunkcnt n).bmpbuf = s.bmpbuf := rfl
@[simp] theorem State.setChunkcnt_bodybuf (s : State) (n : Nat) : (s.setChunkcnt n).bodybuf = s.bodybuf := rfl
@[simp] theorem State.setChunkcnt_outfifo (s : State) (n : Nat) : (s.setChunkcnt n).outfifo = s.outfifo := rfl
@[simp] theorem State.setChunkcnt_readPlace (s : State) (n : Nat) : (s.setChunkcnt n).readPlace = s.readPlace := rfl
@[simp] theorem State.setChunkcnt_pending (s : State) (n : Nat) : (s.setChunkcnt n).pending = s.pending := rfl
@[simp] theorem State.setChunkcnt_emit (s : State) (n : Nat) : (s.setChunkcnt n).emit = s.emit := rfl
@[simp] theorem State.setChunkcnt_sched (s : State) (n : Nat) : (s.setChunkcnt n).sched = s.sched := rfl
@[simp] theorem State.setChunkcnt_prog (s : State) (n : Nat) : (s.setChunkcnt n).prog = s.prog := rfl
@[simp] theorem State.setChunkcnt_results (s : State) (n : Nat) : (s.setChunkcnt n).results = s.results := rfl
@[simp] theorem State.setChunkcnt_log (s : State) (n : Nat) : (s.setChunkcnt n).log = s.log := rfl

/-! ### State.goOn -/

@[simp] theorem State.goOn_cfg (s : State) (rest : List HostStmt) : (s.goOn rest).cfg = s.cfg := rfl
@[simp] theorem State.goOn_done (s : State) (rest : List HostStmt) : (s.goOn rest).done = s.done := rfl
@[simp] theorem State.goOn_err (s : State) (rest : List HostStmt) : (s.goOn rest).err = s.err := rfl
@[simp] theorem State.goOn_ovr (s : State) (rest : List HostStmt) : (s.goOn rest).ovr = s.ovr := rfl
@[simp] theorem State.goOn_errcode (s : State) (rest : List HostStmt) : (s.goOn rest).errcode = s.errcode := rfl
@[simp] theorem State.goOn_errop (s : State) (rest : List HostStmt) : (s.goOn rest).errop = s.errop := rfl
@[simp] theorem State.goOn_width (s : State) (rest : List HostStmt) : (s.goOn rest).width = s.width := rfl
@[simp] theorem State.goOn_height (s : State) (rest : List HostStmt) : (s.goOn rest).height = s.height := rfl
@[simp] theorem State.goOn_bodylen (s : State) (rest : List HostStmt) : (s.goOn rest).bodylen = s.bodylen := rfl
@[simp] theorem State.goOn_csum (s : State) (rest : List HostStmt) : (s.goOn rest).csum = s.csum := rfl
@[simp] theorem State.goOn_chunkcnt (s : State) (rest : List HostStmt) : (s.goOn rest).chunkcnt = s.chunkcnt := rfl
@[simp] theorem State.goOn_pixbuf (s : State) (rest : List HostStmt) : (s.goOn rest).pixbuf = s.pixbuf := rfl
@[simp] theorem State.goOn_bmpbuf (s : State) (rest : List HostStmt) : (s.goOn rest).bmpbuf = s.bmpbuf := rfl
@[simp] theorem State.goOn_bodybuf (s : State) (rest : List HostStmt) : (s.goOn rest).bodybuf = s.bodybuf := rfl
@[simp] theorem State.goOn_outfifo (s : State) (rest : List HostStmt) : (s.goOn rest).outfifo = s.outfifo := rfl
@[simp] theorem State.goOn_readPlace (s : State) (rest : List HostStmt) : (s.goOn rest).readPlace = s.readPlace := rfl
@[simp] theorem State.goOn_pending (s : State) (rest : List HostStmt) : (s.goOn rest).pending = s.pending := rfl
@[simp] theorem State.goOn_emit (s : State) (rest : List HostStmt) : (s.goOn rest).emit = s.emit := rfl
@[simp] theorem State.goOn_sched (s : State) (rest : List HostStmt) : (s.goOn rest).sched = s.sched := rfl
@[simp] theorem State.goOn_prog (s : State) (rest : List HostStmt) : (s.goOn rest).prog = rest := rfl
@[simp] theorem State.goOn_results (s : State) (rest : List HostStmt) : (s.goOn rest).results = s.results := rfl
@[simp] theorem State.goOn_log (s : State) (rest : List HostStmt) : (s.goOn rest).log = s.log := rfl

/-! ### State.spendTurn -/

@[simp] theorem State.spendTurn_cfg (s : State) : (s.spendTurn).cfg = s.cfg := rfl
@[simp] theorem State.spendTurn_done (s : State) : (s.spendTurn).done = s.done := rfl
@[simp] theorem State.spendTurn_err (s : State) : (s.spendTurn).err = s.err := rfl
@[simp] theorem State.spendTurn_ovr (s : State) : (s.spendTurn).ovr = s.ovr := rfl
@[simp] theorem State.spendTurn_errcode (s : State) : (s.spendTurn).errcode = s.errcode := rfl
@[simp] theorem State.spendTurn_errop (s : State) : (s.spendTurn).errop = s.errop := rfl
@[simp] theorem State.spendTurn_width (s : State) : (s.spendTurn).width = s.width := rfl
@[simp] theorem State.spendTurn_height (s : State) : (s.spendTurn).height = s.height := rfl
@[simp] theorem State.spendTurn_bodylen (s : State) : (s.spendTurn).bodylen = s.bodylen := rfl
@[simp] theorem State.spendTurn_csum (s : State) : (s.spendTurn).csum = s.csum := rfl
@[simp] theorem State.spendTurn_chunkcnt (s : State) : (s.spendTurn).chunkcnt = s.chunkcnt := rfl
@[simp] theorem State.spendTurn_pixbuf (s : State) : (s.spendTurn).pixbuf = s.pixbuf := rfl
@[simp] theorem State.spendTurn_bmpbuf (s : State) : (s.spendTurn).bmpbuf = s.bmpbuf := rfl
@[simp] theorem State.spendTurn_bodybuf (s : State) : (s.spendTurn).bodybuf = s.bodybuf := rfl
@[simp] theorem State.spendTurn_outfifo (s : State) : (s.spendTurn).outfifo = s.outfifo := rfl
@[simp] theorem State.spendTurn_readPlace (s : State) : (s.spendTurn).readPlace = s.readPlace := rfl
@[simp] theorem State.spendTurn_pending (s : State) : (s.spendTurn).pending = s.pending := rfl
@[simp] theorem State.spendTurn_emit (s : State) : (s.spendTurn).emit = s.emit := rfl
@[simp] theorem State.spendTurn_sched (s : State) : (s.spendTurn).sched = s.sched.tail := rfl
@[simp] theorem State.spendTurn_prog (s : State) : (s.spendTurn).prog = s.prog := rfl
@[simp] theorem State.spendTurn_results (s : State) : (s.spendTurn).results = s.results := rfl
@[simp] theorem State.spendTurn_log (s : State) : (s.spendTurn).log = s.log := rfl

/-! ### jobEffect -/

@[simp] theorem jobEffect_cfg (bm B : List Byte) (s : State) : (jobEffect bm B s).cfg = s.cfg := rfl
@[simp] theorem jobEffect_done (bm B : List Byte) (s : State) : (jobEffect bm B s).done = s.done := rfl
@[simp] theorem jobEffect_err (bm B : List Byte) (s : State) : (jobEffect bm B s).err = s.err := rfl
@[simp] theorem jobEffect_ovr (bm B : List Byte) (s : State) : (jobEffect bm B s).ovr = s.ovr := rfl
@[simp] theorem jobEffect_errcode (bm B : List Byte) (s : State) : (jobEffect bm B s).errcode = s.errcode := rfl
@[simp] theorem jobEffect_errop (bm B : List Byte) (s : State) : (jobEffect bm B s).errop = s.errop := rfl
@[simp] theorem jobEffect_width (bm B : List Byte) (s : State) : (jobEffect bm B s).width = s.width := rfl
@[simp] theorem jobEffect_height (bm B : List Byte) (s : State) : (jobEffect bm B s).height = s.height := rfl
@[simp] theorem jobEffect_bodylen (bm B : List Byte) (s : State) :
    (jobEffect bm B s).bodylen = BitVec.ofNat 32 B.length := rfl
@[simp] theorem jobEffect_csum (bm B : List Byte) (s : State) :
    (jobEffect bm B s).csum = Wire.checksum (BitVec.ofNat 32 B.length) := rfl
@[simp] theorem jobEffect_chunkcnt (bm B : List Byte) (s : State) :
    (jobEffect bm B s).chunkcnt = BitVec.ofNat 9 (Wire.nchunks B.length) := rfl
@[simp] theorem jobEffect_pixbuf (bm B : List Byte) (s : State) : (jobEffect bm B s).pixbuf = s.pixbuf := rfl
@[simp] theorem jobEffect_bmpbuf (bm B : List Byte) (s : State) : (jobEffect bm B s).bmpbuf = bm := rfl
@[simp] theorem jobEffect_bodybuf (bm B : List Byte) (s : State) : (jobEffect bm B s).bodybuf = B := rfl
@[simp] theorem jobEffect_outfifo (bm B : List Byte) (s : State) : (jobEffect bm B s).outfifo = s.outfifo := rfl
@[simp] theorem jobEffect_readPlace (bm B : List Byte) (s : State) : (jobEffect bm B s).readPlace = s.readPlace := rfl
@[simp] theorem jobEffect_pending (bm B : List Byte) (s : State) : (jobEffect bm B s).pending = s.pending := rfl
@[simp] theorem jobEffect_emit (bm B : List Byte) (s : State) :
    (jobEffect bm B s).emit = Wire.header (BitVec.ofNat 32 B.length) :: Wire.chunks B := rfl
@[simp] theorem jobEffect_sched (bm B : List Byte) (s : State) : (jobEffect bm B s).sched = s.sched := rfl
@[simp] theorem jobEffect_prog (bm B : List Byte) (s : State) : (jobEffect bm B s).prog = s.prog := rfl
@[simp] theorem jobEffect_results (bm B : List Byte) (s : State) : (jobEffect bm B s).results = s.results := rfl
@[simp] theorem jobEffect_log (bm B : List Byte) (s : State) : (jobEffect bm B s).log = s.log := rfl

end Sys2Proof.Machine
end

