-- ==== Sys2Proof/Laws/Ops.lean ====
section
/-! SUPPORT. For each shared operation, once, everything it can do: later proofs cite these and do not unfold. -/

namespace Sys2Proof.Machine

/-! ### The output FIFO -/

theorem popFifo_none {f : List Block} (h : popFifo f = none) : ∀ b ∈ f, b = [] := by
  induction f using popFifo.induct with
  | case1 => simp
  | case2 rest ih => simp only [popFifo] at h; simpa using ih h
  | case3 b rest => simp [popFifo] at h
  | case4 b c bs rest => simp [popFifo] at h

theorem popFifo_cons (b : Byte) (bs : Block) (rest : List Block) :
    popFifo ((b :: bs) :: rest) = some (b, bs.isEmpty, if bs = [] then rest else bs :: rest) := by
  cases bs <;> simp [popFifo]

/-- A pop takes the first element of the FIFO's stream and leaves the others. -/
theorem popFifo_some {f rest : List Block} {b : Byte} {last : Bool} (h : popFifo f = some (b, last, rest)) :
    f.flatMap tagBlock = (b, last) :: rest.flatMap tagBlock ∧
    (f.map List.length).sum = (rest.map List.length).sum + 1 ∧
    ((∀ x ∈ f, blockOk x) → ∀ x ∈ rest, blockOk x) ∧ (last = false → rest ≠ []) := by
  induction f using popFifo.induct with
  | case1 => simp [popFifo] at h
  | case2 r ih =>
    simp only [popFifo] at h
    obtain ⟨h1, h2, h3, h4⟩ := ih h
    refine ⟨by simpa [tagBlock] using h1, by simpa using h2, fun hx => h3 fun x hm => hx x ?_, h4⟩
    exact List.mem_cons_of_mem _ hm
  | case3 c r =>
    simp only [popFifo, Option.some.injEq, Prod.mk.injEq] at h
    obtain ⟨rfl, rfl, rfl⟩ := h
    refine ⟨by simp [tagBlock], by simp; omega, fun hx x hm => hx x (List.mem_cons_of_mem _ hm), by simp⟩
  | case4 c d bs r =>
    simp only [popFifo, Option.some.injEq, Prod.mk.injEq] at h
    obtain ⟨rfl, rfl, rfl⟩ := h
    refine ⟨by simp [tagBlock], by simp; omega, fun hx x hm => ?_, by simp⟩
    rcases List.mem_cons.1 hm with rfl | hm
    · have := hx (c :: d :: bs) (by simp)
      simp [blockOk] at this ⊢; omega
    · exact hx x (List.mem_cons_of_mem _ hm)

/-! ### The record -/

@[simp] theorem BlockPlace.after_last (logged : Bool) (p : BlockPlace) : p.after logged true = .first := rfl
@[simp] theorem BlockPlace.after_gap (logged : Bool) : BlockPlace.gap.after logged false = .gap := by cases logged <;> rfl
@[simp] theorem BlockPlace.after_unlogged (p : BlockPlace) : p.after false false = .gap := rfl
@[simp] theorem BlockPlace.after_first : BlockPlace.first.after true false = .next := rfl
@[simp] theorem BlockPlace.after_next : BlockPlace.next.after true false = .next := rfl

/-- Only a LAST byte is followed by a first byte (R95). -/
theorem BlockPlace.after_eq_first {logged last : Bool} {p : BlockPlace} : p.after logged last = .first ↔ last = true := by
  cases logged <;> cases last <;> cases p <;> decide

/-- The bytes after a whole block begin with a first byte (R95). -/
theorem markPlace_tagBlock_append (p : BlockPlace) {b : Block} (h : b ≠ []) (ys : List (Byte × Bool)) :
    markPlace p (tagBlock b ++ ys) = markPlace p (tagBlock b) ++ markPlace .first ys := by
  induction b using tagBlock.induct generalizing p with
  | case1 => exact absurd rfl h
  | case2 x => simp [tagBlock, markPlace]
  | case3 x y bs ih => simp [tagBlock, markPlace, ih _ (List.cons_ne_nil y bs)]

theorem splitBlocks_next {b : Block} (h : b ≠ []) (pre : Block) (rest : List LogByte) :
    splitBlocks (some pre) (markPlace .next (tagBlock b) ++ rest) = (pre ++ b) :: splitBlocks none rest := by
  induction b using tagBlock.induct generalizing pre with
  | case1 => exact absurd rfl h
  | case2 x => simp [tagBlock, markPlace, splitBlocks, extendBlock]
  | case3 x y bs ih =>
    simp [tagBlock, markPlace, splitBlocks, extendBlock] at ih ⊢
    rw [ih]
    simp

/-- A whole block in a record is one of its blocks, whatever was begun before it (R303). -/
theorem splitBlocks_block {b : Block} (h : b ≠ []) (begun : Option Block) (rest : List LogByte) :
    splitBlocks begun (markPlace .first (tagBlock b) ++ rest) = b :: splitBlocks none rest := by
  match b, h with
  | [x], _ => simp [tagBlock, markPlace, splitBlocks, extendBlock]
  | x :: y :: bs, _ =>
    have := splitBlocks_next (List.cons_ne_nil y bs) [x] rest
    simpa [tagBlock, markPlace, splitBlocks, extendBlock] using this

/-- The rest of a block with a gap is no block, whatever was begun before it. -/
theorem splitBlocks_gap {b : Block} (h : b ≠ []) (begun : Option Block) (rest : List LogByte) :
    splitBlocks begun (markPlace .gap (tagBlock b) ++ rest) = splitBlocks none rest := by
  induction b using tagBlock.induct generalizing begun with
  | case1 => exact absurd rfl h
  | case2 x => simp [tagBlock, markPlace, splitBlocks, extendBlock]
  | case3 x y bs ih =>
    simp [tagBlock, markPlace, splitBlocks, extendBlock] at ih ⊢
    exact ih none

/-! ### The agents' operations on OUTFIFO -/

/-- The fields of the word R95 lays out: DATA, LAST and VALID. -/
theorem outDataWord_fields (b : Byte) (last : Bool) : (outDataWord b last).extractLsb' 0 8 = b ∧
    (outDataWord b last).getLsbD 8 = last ∧ (outDataWord b last).getLsbD 9 = true := by
  refine ⟨?_, by cases last <;> simp [outDataWord], by cases last <;> simp [outDataWord]⟩
  cases last <;> (apply BitVec.eq_of_getLsbD_eq; intro i hi; simp [outDataWord]; interval_cases i <;> simp)

/-- What a read of OUTDATA does: nothing on an empty stream, else one byte leaves it. -/
theorem popOut_cases (s : State) :
    (popFifo s.outfifo = none ∧ s.popOut = s ∧ s.outData = 0) ∨
    ∃ b last rest, popFifo s.outfifo = some (b, last, rest) ∧ s.popOut =
      { s with outfifo := rest, readPlace := s.readPlace.after false last } ∧
      s.outData = outDataWord b last := by
  unfold State.popOut State.outData
  cases h : popFifo s.outfifo with
  | none => exact .inl ⟨rfl, rfl, rfl⟩
  | some p => obtain ⟨b, last, rest⟩ := p; exact .inr ⟨b, last, rest, rfl, rfl, rfl⟩

theorem popOut_eq (s : State) : s.popOut = { s with outfifo := s.popOut.outfifo, readPlace := s.popOut.readPlace } := by
  rcases popOut_cases s with ⟨_, h, _⟩ | ⟨_, _, _, _, h, _⟩ <;> simp [h]

/-- The emission step puts the head block into OUTFIFO, or there is none. -/
theorem emission_cases (s : State) :
    (∃ b rest, s.pending = none ∧ s.emit = b :: rest ∧ s.fits b = true ∧ s.emission = s.emitHead b rest) ∨
    (s.emission = s ∧ ∀ b rest, s.pending = none → s.emit = b :: rest → s.fits b = false) := by
  unfold State.emission
  split
  · rename_i b rest hp he
    by_cases hf : s.fits b = true
    · exact .inl ⟨b, rest, hp, he, hf, by simp [hf]⟩
    · refine .inr ⟨by simp [hf], fun b' r' _ he' => ?_⟩
      rw [he] at he'
      obtain ⟨rfl, rfl⟩ := List.cons.inj he'
      simpa using hf
  · rename_i hp he
    exact .inr ⟨rfl, fun b rest _ h => by simp [he] at h⟩
  · rename_i w hp
    exact .inr ⟨rfl, fun b rest h _ => by simp [hp] at h⟩

theorem engineEnabled_iff (s : State) :
    s.engineEnabled = true ↔
      s.pending ≠ none ∨ ∃ b rest, s.pending = none ∧ s.emit = b :: rest ∧ s.fits b = true := by
  unfold State.engineEnabled
  split <;> rename_i h1 h2 <;> simp_all

theorem busy_iff (s : State) : s.busy = true ↔ s.pending ≠ none ∨ s.emit ≠ [] := by
  cases hp : s.pending <;> cases he : s.emit <;> simp [State.busy, hp, he]

theorem busy_false_iff (s : State) : s.busy = false ↔ s.pending = none ∧ s.emit = [] := by
  cases hp : s.pending <;> cases he : s.emit <;> simp [State.busy, hp, he]

/-- An update that keeps what BUSY is computed from keeps BUSY. -/
theorem busy_congr {s t : State} (hp : t.pending = s.pending) (he : t.emit = s.emit) : t.busy = s.busy := by
  simp [State.busy, hp, he]

/-! ### The commands -/

theorem exec_nop (s : State) : exec .nop s = .next s := rfl

theorem exec_clear (s : State) : exec .clear s = .next s.clear := rfl

theorem exec_pack (s : State) : exec .pack s = .next (s.setBmpbuf (Wire.pack s.pixbuf)).complete := rfl

theorem exec_header (s : State) :
    exec .header s = .next ((s.setCsum (Wire.checksum s.bodylen)).setEmit [Wire.header s.bodylen]).complete := rfl

theorem exec_illegal (r : BitVec 24) (o : Byte) (s : State) :
    exec (.illegal r o) s = .next (s.raise .illegalCommand o) := rfl

/-- The error action with no error recorded yet (R252). -/
theorem raise_first {s : State} (h : s.err = false) (e : ErrorKind) (op : Byte) :
    s.raise e op =
      { s with err := true, errcode := e.code, errop := op, done := false, pending := none, emit := [] } := by
  simp [State.raise, h]

theorem exec_wireHeader (L : Word) (s : State) :
    exec (.wireHeader L) s = .next (s.emissionOf (encode (.wireHeader L))) := rfl

theorem exec_wireChunk (i : Byte) (p : List Byte) (s : State) :
    exec (.wireChunk i p) s = .next (s.emissionOf (encode (.wireChunk i p))) := rfl

theorem exec_wireChunkLast (i : Byte) (p : List Byte) (s : State) :
    exec (.wireChunkLast i p) s = .next (s.emissionOf (encode (.wireChunkLast i p))) := rfl

/-- The five command blocks join the body (log 6). -/
theorem exec_commandBlock {i : Instr} (h : i.standsIn .command = true) (s : State) :
    exec i s = .next (s.appendBody (encode i)) := by
  cases i <;> first | rfl | (simp [Instr.standsIn] at h)

/-- What BUILD does, outcome by outcome (R142). -/
theorem execBuild_cases (s : State) :
    (dimOK s.width s.height s.bmpbuf.length = true ∧ lenOK s.bmpbuf.length = true ∧
      execBuild s = .next (s.setBody (Wire.body s.width s.height s.bmpbuf)).complete) ∨
    (dimOK s.width s.height s.bmpbuf.length = true ∧ lenOK s.bmpbuf.length = false ∧
      execBuild s = .next (s.raise .lengthOverflow 0x03)) ∨
    (dimOK s.width s.height s.bmpbuf.length = false ∧ execBuild s = .next (s.raise .dimensionMismatch 0x03)) := by
  unfold execBuild
  cases h1 : dimOK s.width s.height s.bmpbuf.length <;> cases h2 : lenOK s.bmpbuf.length <;> simp

/-- What FRAME does, outcome by outcome (R197). -/
theorem execFrame_cases (s : State) :
    (framable s.bodybuf.length = true ∧ execFrame s =
      .next ((s.setChunkcnt (Wire.nchunks s.bodybuf.length)).setEmit (Wire.chunks s.bodybuf)).complete) ∨
    (framable s.bodybuf.length = false ∧ execFrame s = .next (s.raise .tooManyChunks 0x05)) := by
  unfold execFrame
  cases h : framable s.bodybuf.length <;> simp

/-- What JOB does, outcome by outcome (R224). -/
theorem execJob_cases (s : State) :
    (dimOK s.width s.height (Wire.pack s.pixbuf).length = true ∧ lenOK (Wire.pack s.pixbuf).length = true ∧
      framable (Wire.body s.width s.height (Wire.pack s.pixbuf)).length = true ∧
      execJob s = .next (jobEffect (Wire.pack s.pixbuf) (Wire.body s.width s.height (Wire.pack s.pixbuf)) s).complete) ∨
    (dimOK s.width s.height (Wire.pack s.pixbuf).length = true ∧ lenOK (Wire.pack s.pixbuf).length = true ∧
      framable (Wire.body s.width s.height (Wire.pack s.pixbuf)).length = false ∧
      execJob s = .next (s.raise .tooManyChunks 0x06)) ∨
    (dimOK s.width s.height (Wire.pack s.pixbuf).length = true ∧ lenOK (Wire.pack s.pixbuf).length = false ∧
      execJob s = .next (s.raise .lengthOverflow 0x06)) ∨
    (dimOK s.width s.height (Wire.pack s.pixbuf).length = false ∧ execJob s = .next (s.raise .dimensionMismatch 0x06)) := by
  unfold execJob
  cases h1 : dimOK s.width s.height (Wire.pack s.pixbuf).length <;>
    cases h2 : lenOK (Wire.pack s.pixbuf).length <;>
    cases h3 : framable (Wire.body s.width s.height (Wire.pack s.pixbuf)).length <;> simp

/-- The block of a row's emission step is emitted, or nothing happens. -/
theorem emissionOf_cases (b : Block) (s : State) :
    (∃ rest, s.pending = none ∧ s.emit = b :: rest ∧ s.fits b = true ∧ s.emissionOf b = s.emitHead b rest) ∨
    s.emissionOf b = s := by
  unfold State.emissionOf
  by_cases hb : s.emit.head? = some b
  · rcases emission_cases s with ⟨c, rest, hp, he, hf, hs⟩ | ⟨hs, _⟩
    · rw [he] at hb
      simp only [List.head?_cons, Option.some.injEq] at hb
      subst hb
      exact .inl ⟨rest, hp, he, hf, by simp [he, hs]⟩
    · exact .inr (by simp [hb, hs])
  · exact .inr (by simp [hb])

/-- Every instruction answers a next state: the PEE has no fault and exec refuses nothing. -/
theorem exec_answers_next (i : Instr) (s : State) : ∃ t, exec i s = .next t := by
  cases i
  case build => rcases execBuild_cases s with ⟨_, _, h⟩ | ⟨_, _, h⟩ | ⟨_, h⟩ <;> exact ⟨_, h⟩
  case frame => rcases execFrame_cases s with ⟨_, h⟩ | ⟨_, h⟩ <;> exact ⟨_, h⟩
  case job =>
    rcases execJob_cases s with ⟨_, _, _, h⟩ | ⟨_, _, _, h⟩ | ⟨_, _, h⟩ | ⟨_, h⟩ <;> exact ⟨_, h⟩
  all_goals exact ⟨_, rfl⟩

/-! ### The host's accesses -/

theorem unlessBusy_cases (f : State → State) (s : State) :
    (s.busy = true ∧ s.unlessBusy f = s.setOvr) ∨ (s.busy = false ∧ s.unlessBusy f = f s) := by
  cases h : s.busy
  · exact .inr ⟨rfl, by simp [State.unlessBusy, h]⟩
  · exact .inl ⟨rfl, by simp [State.unlessBusy, h]⟩

/-- What a write of the window can do: nothing, OVR while busy, a register, a pixel, the pixel overflow, or acceptance. -/
theorem memWrite_cases (off : Nat) (v : Word) (s : State) :
    ∃ t, memWrite off v s = .next t ∧
      (t = s ∨
       (s.busy = true ∧ t = s.setOvr ∧
         (off = 0x08 ∨ off = 0x0C ∨ off = 0x10 ∨ off = 0x1C ∨ (off = 0x00 ∧ v ≠ 0))) ∨
       (s.busy = false ∧ off = 0x08 ∧ t = { s with width := v }) ∨
       (s.busy = false ∧ off = 0x0C ∧ t = { s with height := v }) ∨
       (s.busy = false ∧ off = 0x1C ∧ t = { s with bodylen := v }) ∨
       (s.busy = false ∧ off = 0x10 ∧ s.pixbuf.length < s.cfg.pixCap ∧ t = s.appendPixel (pixelOf v)) ∨
       (s.busy = false ∧ off = 0x10 ∧ s.cfg.pixCap ≤ s.pixbuf.length ∧ t = s.raise .pixelOverflow 0xFF) ∨
       (s.busy = false ∧ off = 0x00 ∧ v ≠ 0 ∧ (s.err = true → v = 1) ∧ t = s.accept v)) := by
  unfold memWrite
  split
  · rename_i r hr
    have hoff : r.offset = off := by
      unfold regAt at hr
      split at hr <;> first | (cases hr; rfl) | cases hr
    subst hoff
    cases r
    case cmd =>
      simp only [writeReg, issue]
      by_cases hv : v = 0
      · subst hv; exact ⟨s, rfl, .inl rfl⟩
      · simp only [hv, if_false]
        refine ⟨_, rfl, ?_⟩
        rcases unlessBusy_cases (fun t => if t.err && v ≠ 1 then t else t.accept v) s with ⟨hb, hu⟩ | ⟨hb, hu⟩
        · exact .inr (.inl ⟨hb, hu, .inr (.inr (.inr (.inr ⟨rfl, hv⟩)))⟩)
        · rw [hu]
          by_cases he : (s.err && v ≠ 1) = true
          · exact .inl (by rw [if_pos he])
          · rw [if_neg he]
            refine .inr (.inr (.inr (.inr (.inr (.inr (.inr ⟨hb, rfl, hv, fun h1 => ?_, rfl⟩))))))
            simp only [h1, Bool.true_and, decide_eq_true_eq, Decidable.not_not] at he
            exact he
    case width =>
      refine ⟨_, rfl, ?_⟩
      rcases unlessBusy_cases (fun t => { t with width := v }) s with ⟨hb, hu⟩ | ⟨hb, hu⟩
      · exact .inr (.inl ⟨hb, hu, .inl rfl⟩)
      · exact .inr (.inr (.inl ⟨hb, rfl, hu⟩))
    case height =>
      refine ⟨_, rfl, ?_⟩
      rcases unlessBusy_cases (fun t => { t with height := v }) s with ⟨hb, hu⟩ | ⟨hb, hu⟩
      · exact .inr (.inl ⟨hb, hu, .inr (.inl rfl)⟩)
      · exact .inr (.inr (.inr (.inl ⟨hb, rfl, hu⟩)))
    case bodylen =>
      refine ⟨_, rfl, ?_⟩
      rcases unlessBusy_cases (fun t => { t with bodylen := v }) s with ⟨hb, hu⟩ | ⟨hb, hu⟩
      · exact .inr (.inl ⟨hb, hu, .inr (.inr (.inr (.inl rfl)))⟩)
      · exact .inr (.inr (.inr (.inr (.inl ⟨hb, rfl, hu⟩))))
    case pixin =>
      refine ⟨_, rfl, ?_⟩
      rcases unlessBusy_cases (fun t =>
        if t.pixbuf.length < t.cfg.pixCap then t.appendPixel (pixelOf v) else t.raise .pixelOverflow 0xFF) s
        with ⟨hb, hu⟩ | ⟨hb, hu⟩
      · exact .inr (.inl ⟨hb, hu, .inr (.inr (.inl rfl))⟩)
      · rw [State.pixelIn, hu]
        by_cases hl : s.pixbuf.length < s.cfg.pixCap
        · exact .inr (.inr (.inr (.inr (.inr (.inl ⟨hb, rfl, hl, if_pos hl⟩)))))
        · exact .inr (.inr (.inr (.inr (.inr (.inr (.inl ⟨hb, rfl, by omega, if_neg hl⟩))))))
    all_goals exact ⟨s, rfl, .inl rfl⟩
  · exact ⟨s, rfl, .inl rfl⟩

theorem afterRead_cases (off : Nat) (s : State) :
    (off = 0x30 ∧ s.afterRead off = s.popOut) ∨ (off ≠ 0x30 ∧ s.afterRead off = s) := by
  unfold State.afterRead
  by_cases h : off = 0x30
  · subst h; exact .inl ⟨rfl, rfl⟩
  · refine .inr ⟨h, if_neg fun hr => h ?_⟩
    unfold regAt at hr
    split at hr <;> simp_all

theorem admittedOffset_some {c : Config} {addr size off : Nat} (h : admittedOffset c addr size = some off) :
    size = 4 ∧ addr = c.peeBase + off ∧ off % 4 = 0 ∧ off ≤ 0xFC := by
  unfold admittedOffset at h
  split at h
  · rename_i hc
    obtain ⟨h1, h2, h3, h4⟩ := hc
    cases h
    exact ⟨h1, by omega, h3, h4⟩
  · cases h

theorem admittedOffset_add (c : Config) {off : Nat} (h1 : off % 4 = 0) (h2 : off ≤ 0xFC) :
    admittedOffset c (c.peeBase + off) 4 = some off := by
  unfold admittedOffset
  rw [if_pos ⟨rfl, by omega, by simpa using h1, by simpa using h2⟩]
  simp

/-! ### The agents and the step -/

/-- What an engine step can do: run the pending word, emit the head block, or nothing. -/
theorem engineStep_cases (s : State) :
    ∃ t, engineStep s = .next t ∧
      ((∃ w, s.pending = some w ∧ exec (decodeCmd w) { s with pending := none } = .next t) ∨
       (∃ b rest, s.pending = none ∧ s.emit = b :: rest ∧ s.fits b = true ∧ t = s.emitHead b rest) ∨
       (s.pending = none ∧ t = s ∧ ∀ b rest, s.emit = b :: rest → s.fits b = false)) := by
  unfold engineStep
  split
  · rename_i w hp
    obtain ⟨t, ht⟩ := exec_answers_next (decodeCmd w) { s with pending := none }
    exact ⟨t, ht, .inl ⟨w, hp, ht⟩⟩
  · rename_i hp
    refine ⟨_, rfl, .inr ?_⟩
    rcases emission_cases s with ⟨b, rest, _, he, hf, hs⟩ | ⟨hs, hn⟩
    · exact .inl ⟨b, rest, hp, he, hf, hs⟩
    · exact .inr ⟨hp, hs, fun b rest he => hn b rest hp he⟩

theorem engineSteps_add {m : Nat} (n : Nat) {s t : State} (h : engineSteps m s = .next t) :
    engineSteps (m + n) s = engineSteps n t := by
  induction m generalizing s with
  | zero =>
    simp only [engineSteps] at h
    injection h with h
    subst h
    simp
  | succ m ih =>
    rw [Nat.succ_add]
    simp only [engineSteps] at h ⊢
    split at h
    · exact ih h
    · cases h
    · cases h

/-- With nothing pending and room for all of EMIT, as many steps as there are blocks put them all into OUTFIFO. -/
theorem engineSteps_emit (bs : List Block) {s : State} (hp : s.pending = none) (he : s.emit = bs)
    (hl : s.outLevel + (bs.map List.length).sum ≤ s.cfg.outCap) :
    engineSteps bs.length s =
      .next { s with outfifo := s.outfifo ++ bs, emit := [], done := s.done || decide (bs ≠ []) } := by
  induction bs generalizing s with
  | nil => simp only [List.length_nil, engineSteps]; cases s; simp_all
  | cons b bs ih =>
    have hf : s.fits b = true := by simp [State.fits] at hl ⊢; omega
    have e1 : engineStep s = .next (s.emitHead b bs) := by
      unfold engineStep
      simp only [hp, State.emission, he, hf]
      simp
    simp only [List.length_cons, engineSteps, e1]
    rw [ih (s := s.emitHead b bs) hp rfl]
    · simp [State.emitHead]
      cases bs <;> simp
    · simp [State.emitHead, State.outLevel] at hl ⊢
      omega

theorem engineSteps_idle (n : Nat) {s : State} (hp : s.pending = none) (he : s.emit = []) :
    engineSteps n s = .next s := by
  induction n with
  | zero => rfl
  | succ n ih =>
    have e1 : engineStep s = .next s := by
      unfold engineStep
      simp only [hp, State.emission, he]
    simp only [engineSteps, e1, ih]

/-- A logged read changes only OUTFIFO, the place of the byte read next, and the log. -/
theorem popAndLog_eq (s : State) :
    s.popAndLog =
      { s with outfifo := s.popOut.outfifo, readPlace := s.popAndLog.readPlace, log := s.popAndLog.log } := by
  unfold State.popAndLog State.logData
  split <;> (rw [popOut_eq s])

/-- What a logged read does: nothing on an empty stream, else the byte leaves OUTFIFO and joins the record. -/
theorem popAndLog_cases (s : State) :
    (popFifo s.outfifo = none ∧ s.popAndLog = s) ∨
    ∃ b last rest, popFifo s.outfifo = some (b, last, rest) ∧
      s.popAndLog = { s with outfifo := rest, readPlace := s.readPlace.after true last, log := s.log ++ [⟨b, s.readPlace, last⟩] } := by
  rcases popOut_cases s with ⟨h, hp, hd⟩ | ⟨b, last, rest, h, hp, hd⟩
  · exact .inl ⟨h, by simp [State.popAndLog, State.logData, hp, hd]⟩
  · refine .inr ⟨b, last, rest, h, ?_⟩
    obtain ⟨h0, h8, h9⟩ := outDataWord_fields b last
    simp only [State.popAndLog, State.logData, hp, hd, h0, h8, h9, if_true]

/-- What a host step can do, when it answers a next state. -/
theorem hostStep_cases {s t : State} (h : hostStep s = .next t) :
    (s.prog = [] ∧ t = s) ∨
    (∃ addr size off rest, s.prog = .bus (.read addr size) :: rest ∧ admittedOffset s.cfg addr size = some off ∧
      t = { s.afterRead off with results := s.results ++ [s.readValue off], prog := rest }) ∨
    (∃ addr size off v rest, s.prog = .bus (.write addr size v) :: rest ∧
      admittedOffset s.cfg addr size = some off ∧ memWrite off v (s.goOn rest) = .next t) ∨
    (∃ st rest next, s.prog = st :: rest ∧ (st = .wait ∨ st = .runStatus ∨ st = .runLevel) ∧ t = s.goOn next) ∨
    (∃ st rest next, s.prog = st :: rest ∧ (st = .drain ∨ st = .runPop) ∧ t = s.popAndLog.goOn next) ∨
    (∃ rest, s.prog = .reset :: rest ∧ t = s.clear.goOn rest) := by
  unfold hostStep at h
  split at h
  · rename_i hp; cases h; exact .inl ⟨hp, rfl⟩
  · rename_i a rest hp
    cases a with
    | read addr size =>
      simp only [busStep] at h
      split at h
      · rename_i off ho; cases h; exact .inr (.inl ⟨addr, size, off, rest, hp, ho, rfl⟩)
      · cases h
    | write addr size v =>
      simp only [busStep] at h
      split at h
      · rename_i off ho; exact .inr (.inr (.inl ⟨addr, size, off, v, rest, hp, ho, h⟩))
      · cases h
  · rename_i rest hp; cases h; exact .inr (.inr (.inr (.inl ⟨_, rest, _, hp, .inl rfl, rfl⟩)))
  · rename_i rest hp; cases h; exact .inr (.inr (.inr (.inr (.inl ⟨_, rest, _, hp, .inl rfl, rfl⟩))))
  · rename_i rest hp; cases h; exact .inr (.inr (.inr (.inr (.inl ⟨_, rest, _, hp, .inr rfl, rfl⟩))))
  · rename_i rest hp; cases h; exact .inr (.inr (.inr (.inl ⟨_, rest, _, hp, .inr (.inl rfl), rfl⟩)))
  · rename_i rest hp; cases h; exact .inr (.inr (.inr (.inl ⟨_, rest, _, hp, .inr (.inr rfl), rfl⟩)))
  · rename_i rest hp; cases h; exact .inr (.inr (.inr (.inr (.inr ⟨rest, hp, rfl⟩))))

/-- A register reads the same in two states that agree on the fields behind the window. -/
theorem readReg_congr {s t : State} (r : Reg) (hs : t.statusWord = s.statusWord) (hw : t.width = s.width)
    (hh : t.height = s.height) (hp : t.pixbuf = s.pixbuf) (hb : t.bmpbuf = s.bmpbuf) (hl : t.bodylen = s.bodylen)
    (hc : t.csum = s.csum) (hn : t.chunkcnt = s.chunkcnt) (ho : t.outfifo = s.outfifo) : t.readReg r = s.readReg r := by
  cases r <;> simp [State.readReg, State.outLevel, State.outBlks, State.outData, hs, hw, hh, hp, hb, hl, hc, hn, ho]

/-- The step, agent by agent. -/
theorem step_cases (s : State) :
    (s.nextAgent = .host ∧ step s = hostStep s.spendTurn) ∨ (s.nextAgent = .engine ∧ step s = engineStep s.spendTurn) ∨
    (s.nextAgent = .reset ∧ step s = .next s.spendTurn.clear) := by
  unfold step
  cases h : s.nextAgent <;> simp

/-- Everything a step can do, when it answers a next state: an execute step, an emission step, a turn that passes, a host
read, a host write, a loop's read of STATUS or OUTLEVEL, a logged read of OUTDATA, or the reset input. -/
theorem step_next_cases {s t : State} (h : step s = .next t) :
    (∃ w, s.executes w ∧ exec (decodeCmd w) { s.spendTurn with pending := none } = .next t) ∨
    (∃ b rest, s.emits b ∧ s.emit = b :: rest ∧ t = s.spendTurn.emitHead b rest) ∨
    (t = s.spendTurn ∧ (∀ w, ¬ s.executes w) ∧ (∀ b, ¬ s.emits b) ∧ s.nextAgent ≠ .reset ∧ ∀ st, ¬ s.hostDoes st) ∨
    (∃ off rest, s.hostDoes (.bus (.read (s.cfg.peeBase + off) 4)) ∧
      s.prog = .bus (.read (s.cfg.peeBase + off) 4) :: rest ∧ off % 4 = 0 ∧ off ≤ 0xFC ∧
      t = { s.spendTurn.afterRead off with results := s.results ++ [s.spendTurn.readValue off], prog := rest }) ∨
    (∃ off v rest, s.hostWrites off v ∧ s.prog = .bus (.write (s.cfg.peeBase + off) 4 v) :: rest ∧ off % 4 = 0 ∧
      off ≤ 0xFC ∧ memWrite off v (s.spendTurn.goOn rest) = .next t) ∨
    (∃ st rest next, s.hostDoes st ∧ s.prog = st :: rest ∧ (st = .wait ∨ st = .runStatus ∨ st = .runLevel) ∧
      t = s.spendTurn.goOn next) ∨
    (∃ st rest next, s.hostDoes st ∧ s.prog = st :: rest ∧ (st = .drain ∨ st = .runPop) ∧
      t = s.spendTurn.popAndLog.goOn next) ∨
    (∃ next, s.resets ∧ t = s.spendTurn.clear.goOn next) := by
  rcases step_cases s with ⟨ha, hs⟩ | ⟨ha, hs⟩ | ⟨ha, hs⟩
  · rw [hs] at h
    have does : ∀ {st rest}, s.prog = st :: rest → s.hostDoes st := fun hp => ⟨ha, by simp [hp]⟩
    rcases hostStep_cases h with ⟨hp, ht⟩ | ⟨addr, size, off, rest, hp, ho, ht⟩ | ⟨addr, size, off, v, rest, hp, ho, ht⟩ |
      ⟨st, rest, next, hp, hst, ht⟩ | ⟨st, rest, next, hp, hst, ht⟩ | ⟨rest, hp, ht⟩
    · refine .inr (.inr (.inl ⟨ht, fun w hw => ?_, fun b hb => ?_, fun hr => ?_, fun st hst => ?_⟩))
      · rw [hw.1] at ha; cases ha
      · rw [hb.1] at ha; cases ha
      · rw [hr] at ha; cases ha
      · have := hst.2; rw [show s.prog = [] from hp] at this; cases this
    · obtain ⟨rfl, rfl, h4, hl⟩ := admittedOffset_some ho
      exact .inr (.inr (.inr (.inl ⟨off, rest, does hp, hp, h4, hl, ht⟩)))
    · obtain ⟨rfl, rfl, h4, hl⟩ := admittedOffset_some ho
      exact .inr (.inr (.inr (.inr (.inl ⟨off, v, rest, does hp, hp, h4, hl, ht⟩))))
    · exact .inr (.inr (.inr (.inr (.inr (.inl ⟨st, rest, next, does hp, hp, hst, ht⟩)))))
    · exact .inr (.inr (.inr (.inr (.inr (.inr (.inl ⟨st, rest, next, does hp, hp, hst, ht⟩))))))
    · exact .inr (.inr (.inr (.inr (.inr (.inr (.inr ⟨rest, .inr (does hp), ht⟩))))))
  · rw [hs] at h
    obtain ⟨t', ht', hc⟩ := engineStep_cases s.spendTurn
    rw [ht'] at h
    cases h
    rcases hc with ⟨w, hp, he⟩ | ⟨b, rest, hp, he, hf, ht⟩ | ⟨hp, ht, hn⟩
    · exact .inl ⟨w, ⟨ha, hp⟩, he⟩
    · exact .inr (.inl ⟨b, rest, ⟨ha, hp, by simp [show s.emit = b :: rest from he], hf⟩, he, ht⟩)
    · refine .inr (.inr (.inl ⟨ht, fun w hw => ?_, fun b hb => ?_, fun hr => ?_, fun st hst => ?_⟩))
      · have := hw.2; rw [show s.pending = none from hp] at this; cases this
      · obtain ⟨_, _, he, hf⟩ := hb
        cases hem : s.emit with
        | nil => simp [hem] at he
        | cons c rest =>
          simp only [hem, List.head?_cons, Option.some.injEq] at he
          subst he
          have := hn c rest hem
          rw [show s.spendTurn.fits c = s.fits c from rfl, hf] at this
          cases this
      · rw [hr] at ha; cases ha
      · rw [hst.1] at ha; cases ha
  · rw [hs] at h
    cases h
    exact .inr (.inr (.inr (.inr (.inr (.inr (.inr ⟨s.prog, .inl ha, rfl⟩))))))

end Sys2Proof.Machine
end

