-- ==== Sys2Proof/Laws/Wire.lean ====
section
/-! SUPPORT. The small lemmas of the wire functions and the operand checks: lengths, the checks as propositions, and the two
directions of le32. -/

namespace Sys2Proof

/-! ### The checks, as propositions -/

theorem Machine.dimOK_iff (w h : Word) (n : Nat) : Machine.dimOK w h n = true ↔ w.toNat * h.toNat = 8 * n := by
  simp [Machine.dimOK]

theorem Machine.lenOK_iff (n : Nat) : Machine.lenOK n = true ↔ 24 + n ≤ 4294967295 :=
  decide_eq_true_iff

theorem Machine.framable_iff (L : Nat) : Machine.framable L = true ↔ Wire.nchunks L ≤ 256 :=
  decide_eq_true_iff

theorem wellFormed_wireChunk (i : Byte) (p : List Byte) :
    (Instr.wireChunk i p).wellFormed = true ↔ p.length = 500 ∧ i.toNat < 255 := by
  simp only [Instr.wellFormed, Bool.and_eq_true, beq_iff_eq, decide_eq_true_eq, Wire.chunkSize]

theorem wellFormed_wireChunkLast (i : Byte) (p : List Byte) :
    (Instr.wireChunkLast i p).wellFormed = true ↔ p.length ≤ 500 ∧ (p ≠ [] ∨ i = 0) := by
  simp only [Instr.wellFormed, Bool.and_eq_true, Bool.or_eq_true, beq_iff_eq, decide_eq_true_eq]
  rfl

/-! ### Lengths -/

@[simp] theorem Wire.le32_length (v : Word) : (Wire.le32 v).length = 4 := rfl

@[simp] theorem Wire.header_length (L : Word) : (Wire.header L).length = 9 := by
  simp [Wire.header, Wire.headerPrefix]

theorem Wire.nchunks_eq (L : Nat) : Wire.nchunks L = if L = 0 then 1 else (L + 499) / 500 := by
  unfold Wire.nchunks Wire.ceilDiv Wire.chunkSize
  rfl

theorem Wire.nchunks_pos (L : Nat) : 1 ≤ Wire.nchunks L := by
  rw [Wire.nchunks_eq]; split <;> omega

theorem Wire.payload_length (B : List Byte) (i : Nat) : (Wire.payload B i).length = min 500 (B.length - i * 500) := by
  simp [Wire.payload, Wire.chunkSize]

theorem Wire.pack_length (p : List Bool) : (Wire.pack p).length = (p.length + 7) / 8 := by
  simp [Wire.pack, Wire.ceilDiv]

theorem Wire.body_length (w h : Word) (bm : List Byte) : (Wire.body w h bm).length = 24 + bm.length := by
  simp [Wire.body, Wire.printData, Wire.startJob, Wire.formFeed, Wire.statusBlk, Wire.endBlk]
  omega

theorem Wire.chunks_length (B : List Byte) : (Wire.chunks B).length = Wire.nchunks B.length := by
  simp [Wire.chunks]

theorem Wire.chunks_ne_nil (B : List Byte) : Wire.chunks B ≠ [] := by
  have := Wire.nchunks_pos B.length
  intro h
  have h := congrArg List.length h
  simp [Wire.chunks] at h
  omega

/-- Every chunk has 1 to 503 bytes (R199). -/
theorem Wire.chunk_length_bounds (B : List Byte) {b : Block} (h : b ∈ Wire.chunks B) : 1 ≤ b.length ∧ b.length ≤ 503 := by
  simp only [Wire.chunks, List.mem_map, List.mem_range] at h
  obtain ⟨i, _, rfl⟩ := h
  have := Wire.payload_length B i
  unfold Wire.chunk
  split <;> simp [Wire.trailer] <;> omega

theorem Machine.framable_iff_le (L : Nat) : Machine.framable L = true ↔ L ≤ 128000 := by
  rw [Machine.framable_iff, Wire.nchunks_eq]
  split <;> omega

/-! ### Little-endian words -/

theorem Wire.ofLe32_toNat (a b c d : Byte) :
    (Wire.ofLe32 a b c d).toNat = a.toNat + 256 * b.toNat + 65536 * c.toNat + 16777216 * d.toNat := by
  have ha := a.isLt
  have hb := b.isLt
  have hc := c.isLt
  simp only [Wire.ofLe32, BitVec.toNat_append]
  rw [← Nat.shiftLeft_add_eq_or_of_lt (by simpa using ha), ← Nat.shiftLeft_add_eq_or_of_lt (by simpa using hb),
    ← Nat.shiftLeft_add_eq_or_of_lt (by simpa using hc)]
  simp only [Nat.shiftLeft_eq]
  omega

/-- Writing what was read gives the bytes back. -/
theorem Wire.le32_ofLe32 (a b c d : Byte) : Wire.le32 (Wire.ofLe32 a b c d) = [a, b, c, d] := by
  have ha := a.isLt
  have hb := b.isLt
  have hc := c.isLt
  have hd := d.isLt
  simp only [Wire.le32, List.cons.injEq, and_true]
  refine ⟨?_, ?_, ?_, ?_⟩ <;> apply BitVec.eq_of_toNat_eq <;>
    simp only [BitVec.extractLsb'_toNat, Wire.ofLe32_toNat, Nat.shiftRight_eq_div_pow] <;> omega

/-- Reading what was written gives the word back. -/
theorem Wire.ofLe32_le32 (v : Word) :
    Wire.ofLe32 (v.extractLsb' 0 8) (v.extractLsb' 8 8) (v.extractLsb' 16 8) (v.extractLsb' 24 8) = v := by
  apply BitVec.eq_of_toNat_eq
  have := v.isLt
  simp only [Wire.ofLe32_toNat, BitVec.extractLsb'_toNat, Nat.shiftRight_eq_div_pow]
  omega

end Sys2Proof
end

