-- ==== Sys2Proof/Laws/Decode.lean ====
section
/-! SUPPORT. Command words, case by case: what the decoder reads, and what an execute step can do. -/

namespace Sys2Proof

open Machine

theorem word_of_fields (w : Word) : w.toNat = (rsvdOf w).toNat * 256 + (opcodeOf w).toNat := by
  have := w.isLt
  simp only [rsvdOf, opcodeOf, BitVec.extractLsb'_toNat, Nat.shiftRight_eq_div_pow]
  omega

/-- A command word is one of the seven or it is illegal. -/
theorem decodeCmd_cases (w : Word) :
    (w = 0 ∧ decodeCmd w = .nop) ∨ (w = 1 ∧ decodeCmd w = .clear) ∨ (w = 2 ∧ decodeCmd w = .pack) ∨
    (w = 3 ∧ decodeCmd w = .build) ∨ (w = 4 ∧ decodeCmd w = .header) ∨ (w = 5 ∧ decodeCmd w = .frame) ∨
    (w = 6 ∧ decodeCmd w = .job) ∨
    (6 < w.toNat ∧ (rsvdOf w ≠ 0 ∨ 6 < (opcodeOf w).toNat) ∧ decodeCmd w = .illegal (rsvdOf w) (opcodeOf w)) := by
  have hw := word_of_fields w
  by_cases hr : rsvdOf w = 0
  · have hn : w.toNat = (opcodeOf w).toNat := by simpa [hr] using hw
    have key : ∀ n : Nat, (opcodeOf w).toNat = n → w = BitVec.ofNat 32 n := by
      intro n h
      apply BitVec.eq_of_toNat_eq
      have := (opcodeOf w).isLt
      simp only [BitVec.toNat_ofNat]
      omega
    by_cases h0 : (opcodeOf w).toNat = 0
    · exact .inl ⟨key 0 h0, by simp [decodeCmd, hr, h0]⟩
    by_cases h1 : (opcodeOf w).toNat = 1
    · exact .inr (.inl ⟨key 1 h1, by simp [decodeCmd, hr, h1]⟩)
    by_cases h2 : (opcodeOf w).toNat = 2
    · exact .inr (.inr (.inl ⟨key 2 h2, by simp [decodeCmd, hr, h2]⟩))
    by_cases h3 : (opcodeOf w).toNat = 3
    · exact .inr (.inr (.inr (.inl ⟨key 3 h3, by simp [decodeCmd, hr, h3]⟩)))
    by_cases h4 : (opcodeOf w).toNat = 4
    · exact .inr (.inr (.inr (.inr (.inl ⟨key 4 h4, by simp [decodeCmd, hr, h4]⟩))))
    by_cases h5 : (opcodeOf w).toNat = 5
    · exact .inr (.inr (.inr (.inr (.inr (.inl ⟨key 5 h5, by simp [decodeCmd, hr, h5]⟩)))))
    by_cases h6 : (opcodeOf w).toNat = 6
    · exact .inr (.inr (.inr (.inr (.inr (.inr (.inl ⟨key 6 h6, by simp [decodeCmd, hr, h6]⟩))))))
    refine .inr (.inr (.inr (.inr (.inr (.inr (.inr ⟨by omega, .inr (by omega), ?_⟩))))))
    unfold decodeCmd
    rw [if_pos hr]
    split <;> first | contradiction | rw [hr]
  · refine .inr (.inr (.inr (.inr (.inr (.inr (.inr ⟨?_, .inl hr, by unfold decodeCmd; rw [if_neg hr]⟩))))))
    have : (rsvdOf w).toNat ≠ 0 := fun h => hr (BitVec.eq_of_toNat_eq (by simpa using h))
    omega

/-- What the execute step of a command word can do (R221). -/
theorem execCmd_cases {w : Word} {s t : State} (h : exec (decodeCmd w) s = .next t) :
    (w = 0 ∧ t = s) ∨ (w = 1 ∧ t = s.clear) ∨ (w = 2 ∧ t = (s.setBmpbuf (Wire.pack s.pixbuf)).complete) ∨
    (w = 3 ∧ dimOK s.width s.height s.bmpbuf.length = true ∧ lenOK s.bmpbuf.length = true ∧
      t = (s.setBody (Wire.body s.width s.height s.bmpbuf)).complete) ∨
    (w = 4 ∧ t = ((s.setCsum (Wire.checksum s.bodylen)).setEmit [Wire.header s.bodylen]).complete) ∨
    (w = 5 ∧ framable s.bodybuf.length = true ∧
      t = ((s.setChunkcnt (Wire.nchunks s.bodybuf.length)).setEmit (Wire.chunks s.bodybuf)).complete) ∨
    (w = 6 ∧ dimOK s.width s.height (Wire.pack s.pixbuf).length = true ∧ lenOK (Wire.pack s.pixbuf).length = true ∧
      framable (Wire.body s.width s.height (Wire.pack s.pixbuf)).length = true ∧
      t = (jobEffect (Wire.pack s.pixbuf) (Wire.body s.width s.height (Wire.pack s.pixbuf)) s).complete) ∨
    (∃ e, t = s.raise e (opcodeOf w) ∧
      ((w = 3 ∧ ((dimOK s.width s.height s.bmpbuf.length = false ∧ e = .dimensionMismatch) ∨
          (dimOK s.width s.height s.bmpbuf.length = true ∧ lenOK s.bmpbuf.length = false ∧ e = .lengthOverflow))) ∨
       (w = 5 ∧ framable s.bodybuf.length = false ∧ e = .tooManyChunks) ∨
       (w = 6 ∧ ((dimOK s.width s.height (Wire.pack s.pixbuf).length = false ∧ e = .dimensionMismatch) ∨
          (dimOK s.width s.height (Wire.pack s.pixbuf).length = true ∧ lenOK (Wire.pack s.pixbuf).length = false ∧
            e = .lengthOverflow) ∨
          (dimOK s.width s.height (Wire.pack s.pixbuf).length = true ∧ lenOK (Wire.pack s.pixbuf).length = true ∧
            framable (Wire.body s.width s.height (Wire.pack s.pixbuf)).length = false ∧ e = .tooManyChunks))) ∨
       (6 < w.toNat ∧ (rsvdOf w ≠ 0 ∨ 6 < (opcodeOf w).toNat) ∧ e = .illegalCommand))) := by
  rcases decodeCmd_cases w with ⟨rfl, hd⟩ | ⟨rfl, hd⟩ | ⟨rfl, hd⟩ | ⟨rfl, hd⟩ | ⟨rfl, hd⟩ | ⟨rfl, hd⟩ | ⟨rfl, hd⟩ |
    ⟨hw, hf, hd⟩ <;> rw [hd] at h
  · rw [exec_nop] at h; injection h with h; exact .inl ⟨rfl, h.symm⟩
  · rw [exec_clear] at h; injection h with h; exact .inr (.inl ⟨rfl, h.symm⟩)
  · rw [exec_pack] at h; injection h with h; exact .inr (.inr (.inl ⟨rfl, h.symm⟩))
  · simp only [exec] at h
    rcases execBuild_cases s with ⟨h1, h2, hb⟩ | ⟨h1, h2, hb⟩ | ⟨h1, hb⟩ <;>
      (rw [hb] at h; injection h with h; subst h)
    · exact .inr (.inr (.inr (.inl ⟨rfl, h1, h2, rfl⟩)))
    · exact .inr (.inr (.inr (.inr (.inr (.inr (.inr ⟨_, rfl, .inl ⟨rfl, .inr ⟨h1, h2, rfl⟩⟩⟩))))))
    · exact .inr (.inr (.inr (.inr (.inr (.inr (.inr ⟨_, rfl, .inl ⟨rfl, .inl ⟨h1, rfl⟩⟩⟩))))))
  · rw [exec_header] at h; injection h with h; exact .inr (.inr (.inr (.inr (.inl ⟨rfl, h.symm⟩))))
  · simp only [exec] at h
    rcases execFrame_cases s with ⟨h1, hb⟩ | ⟨h1, hb⟩ <;> (rw [hb] at h; injection h with h; subst h)
    · exact .inr (.inr (.inr (.inr (.inr (.inl ⟨rfl, h1, rfl⟩)))))
    · exact .inr (.inr (.inr (.inr (.inr (.inr (.inr ⟨_, rfl, .inr (.inl ⟨rfl, h1, rfl⟩)⟩))))))
  · simp only [exec] at h
    rcases execJob_cases s with ⟨h1, h2, h3, hb⟩ | ⟨h1, h2, h3, hb⟩ | ⟨h1, h2, hb⟩ | ⟨h1, hb⟩ <;>
      (rw [hb] at h; injection h with h; subst h)
    · exact .inr (.inr (.inr (.inr (.inr (.inr (.inl ⟨rfl, h1, h2, h3, rfl⟩))))))
    · exact .inr (.inr (.inr (.inr (.inr (.inr (.inr
        ⟨_, rfl, .inr (.inr (.inl ⟨rfl, .inr (.inr ⟨h1, h2, h3, rfl⟩)⟩))⟩))))))
    · exact .inr (.inr (.inr (.inr (.inr (.inr (.inr
        ⟨_, rfl, .inr (.inr (.inl ⟨rfl, .inr (.inl ⟨h1, h2, rfl⟩)⟩))⟩))))))
    · exact .inr (.inr (.inr (.inr (.inr (.inr (.inr ⟨_, rfl, .inr (.inr (.inl ⟨rfl, .inl ⟨h1, rfl⟩⟩))⟩))))))
  · rw [exec_illegal] at h
    injection h with h
    exact .inr (.inr (.inr (.inr (.inr (.inr (.inr ⟨_, h.symm, .inr (.inr (.inr ⟨hw, hf, rfl⟩))⟩))))))

end Sys2Proof
end

