-- ==== Sys2Proof/Laws/PerInstr.lean ====
section
/-! SUPPORT. One statement per constructor of Instr: the length of its encoding in bytes. -/

namespace Sys2Proof.Laws.EncodeLength

/-- The length the spec gives each row: 4 bytes of a command word (R90), 9 of a header (R96), 6, 12 + N and 2 of the
command blocks (R97..R99), and 1 + p, with 2 more on the last chunk (R101). -/
def byteLength : Instr → Nat
  | .nop => 4
  | .clear => 4
  | .pack => 4
  | .build => 4
  | .header => 4
  | .frame => 4
  | .job => 4
  | .illegal _ _ => 4
  | .wireHeader _ => 9
  | .wireStartJob => 6
  | .wirePrintData _ _ bitmap => 12 + bitmap.length
  | .wireFormFeed => 2
  | .wireStatus => 2
  | .wireEnd => 2
  | .wireChunk _ payload => 1 + payload.length
  | .wireChunkLast _ payload => 1 + payload.length + 2

def Statement (i : Instr) : Prop := (encode i).length = byteLength i

theorem nop : Statement .nop := rfl

theorem clear : Statement .clear := rfl

theorem pack : Statement .pack := rfl

theorem build : Statement .build := rfl

theorem header : Statement .header := rfl

theorem frame : Statement .frame := rfl

theorem job : Statement .job := rfl

theorem illegal (rsvd : BitVec 24) (opcode : Byte) : Statement (.illegal rsvd opcode) := rfl

theorem wireHeader (bodyLen : Word) : Statement (.wireHeader bodyLen) := Wire.header_length bodyLen

theorem wireStartJob : Statement .wireStartJob := rfl

theorem wirePrintData (width height : Word) (bitmap : List Byte) : Statement (.wirePrintData width height bitmap) := by
  simp [Statement, byteLength, encode, Wire.printData]
  omega

theorem wireFormFeed : Statement .wireFormFeed := rfl

theorem wireStatus : Statement .wireStatus := rfl

theorem wireEnd : Statement .wireEnd := rfl

theorem wireChunk (index : Byte) (payload : List Byte) : Statement (.wireChunk index payload) := by
  simp [Statement, byteLength, encode]
  omega

theorem wireChunkLast (index : Byte) (payload : List Byte) : Statement (.wireChunkLast index payload) := by
  simp [Statement, byteLength, encode, Wire.trailer]
  omega

end Sys2Proof.Laws.EncodeLength
end

