-- ==== Sys2Proof/Laws/Step.lean ====
section
/-! SUPPORT. One step of the machine, case by case: what the kinds of step exclude of each other, and everything a step can
do to the state. -/

namespace Sys2Proof.Machine

/-! ### The kinds of step exclude each other -/

theorem hostDoes_not_executes {s : State} {st : HostStmt} (h : s.hostDoes st) (w : Word) : ¬ s.executes w := by
  intro hw
  have := hw.1
  rw [h.1] at this
  cases this

theorem hostDoes_not_emits {s : State} {st : HostStmt} (h : s.hostDoes st) (b : Block) : ¬ s.emits b := by
  intro hb
  have := hb.1
  rw [h.1] at this
  cases this

theorem hostDoes_unique {s : State} {st st' : HostStmt} (h : s.hostDoes st) (h' : s.hostDoes st') : st = st' := by
  have := h.2
  rw [h'.2] at this
  simpa using this.symm

theorem executes_unique {s : State} {w w' : Word} (h : s.executes w) (h' : s.executes w') : w = w' := by
  have := h.2
  rw [h'.2] at this
  simpa using this.symm

theorem hostWrites_unique {s : State} {o o' : Nat} {v v' : Word} (h : s.hostWrites o v) (h' : s.hostWrites o' v') :
    o = o' ∧ v = v' := by
  have := hostDoes_unique h h'
  simp only [HostStmt.bus.injEq, BusAccess.write.injEq] at this
  exact ⟨by omega, this.2.2⟩

theorem executes_not_emits {s : State} {w : Word} (h : s.executes w) (b : Block) : ¬ s.emits b := by
  intro hb
  have := hb.2.1
  rw [h.2] at this
  cases this

theorem executes_not_hostDoes {s : State} {w : Word} (h : s.executes w) (st : HostStmt) : ¬ s.hostDoes st :=
  fun hd => hostDoes_not_executes hd w h

theorem emits_not_hostDoes {s : State} {b : Block} (h : s.emits b) (st : HostStmt) : ¬ s.hostDoes st :=
  fun hd => hostDoes_not_emits hd b h

theorem emits_not_executes {s : State} {b : Block} (h : s.emits b) (w : Word) : ¬ s.executes w :=
  fun hw => executes_not_emits hw b h

theorem hostDoes_not_resets {s : State} {st : HostStmt} (h : s.hostDoes st) (hne : st ≠ .reset) : ¬ s.resets := by
  rintro (hr | hr)
  · rw [h.1] at hr; cases hr
  · exact hne (hostDoes_unique h hr)

theorem resets_excludes {s : State} (h : s.resets) : (∀ w, ¬ s.executes w) ∧ (∀ b, ¬ s.emits b) ∧
    ∀ st, st ≠ .reset → ¬ s.hostDoes st := by
  refine ⟨fun w hw => ?_, fun b hb => ?_, fun st hne hd => hostDoes_not_resets hd hne h⟩
  · rcases h with h | h
    · have := hw.1; rw [h] at this; cases this
    · exact hostDoes_not_executes h w hw
  · rcases h with h | h
    · have := hb.1; rw [h] at this; cases this
    · exact hostDoes_not_emits h b hb

theorem executes_not_resets {s : State} {w : Word} (h : s.executes w) : ¬ s.resets :=
  fun hr => (resets_excludes hr).1 w h

theorem emits_not_resets {s : State} {b : Block} (h : s.emits b) : ¬ s.resets := fun hr => (resets_excludes hr).2.1 b h

theorem hostWrites_not_resets {s : State} {o : Nat} {v : Word} (h : s.hostWrites o v) : ¬ s.resets :=
  hostDoes_not_resets h (by simp)

theorem hostPops_excludes {s : State} (h : s.hostPops) :
    (∀ w, ¬ s.executes w) ∧ (∀ b, ¬ s.emits b) ∧ ¬ s.resets ∧ ∀ o v, ¬ s.hostWrites o v := by
  rcases h with h | h | h <;>
    exact ⟨hostDoes_not_executes h, hostDoes_not_emits h, hostDoes_not_resets h (by simp),
      fun o v hw => (by cases hostDoes_unique h hw)⟩

/-! ### What a write and a step can do -/

/-- `memWrite_cases`, for a write known to answer t. -/
theorem memWrite_next_cases {off : Nat} {v : Word} {s t : State} (h : memWrite off v s = .next t) :
    t = s ∨
    (s.busy = true ∧ t = s.setOvr ∧ (off = 0x08 ∨ off = 0x0C ∨ off = 0x10 ∨ off = 0x1C ∨ (off = 0x00 ∧ v ≠ 0))) ∨
    (s.busy = false ∧ off = 0x08 ∧ t = { s with width := v }) ∨
    (s.busy = false ∧ off = 0x0C ∧ t = { s with height := v }) ∨
    (s.busy = false ∧ off = 0x1C ∧ t = { s with bodylen := v }) ∨
    (s.busy = false ∧ off = 0x10 ∧ s.pixbuf.length < s.cfg.pixCap ∧ t = s.appendPixel (pixelOf v)) ∨
    (s.busy = false ∧ off = 0x10 ∧ s.cfg.pixCap ≤ s.pixbuf.length ∧ t = s.raise .pixelOverflow 0xFF) ∨
    (s.busy = false ∧ off = 0x00 ∧ v ≠ 0 ∧ (s.err = true → v = 1) ∧ t = s.accept v) := by
  obtain ⟨t', h', hc⟩ := memWrite_cases off v s
  rw [h] at h'
  injection h' with h'
  subst h'
  exact hc

theorem spendTurn_popOut (s : State) : s.spendTurn.popOut = { s.popOut with sched := s.sched.tail } := by
  unfold State.popOut State.spendTurn
  cases popFifo s.outfifo <;> rfl

theorem spendTurn_popAndLog (s : State) : s.spendTurn.popAndLog = { s.popAndLog with sched := s.sched.tail } := by
  rcases popAndLog_cases s with ⟨hn, h⟩ | ⟨b, last, rest, hf, h⟩ <;>
    rcases popAndLog_cases s.spendTurn with ⟨hn', h'⟩ | ⟨b', last', rest', hf', h'⟩
  · rw [h, h']; rfl
  · rw [show popFifo s.spendTurn.outfifo = none from hn] at hf'; cases hf'
  · rw [show popFifo s.spendTurn.outfifo = _ from hf] at hn'; cases hn'
  · rw [show popFifo s.spendTurn.outfifo = _ from hf] at hf'
    cases hf'
    rw [h, h']; rfl

/-- Everything a step can do to the state: an execute step, an emission step, nothing outside the host's own part, a read
of OUTDATA, a write of the window, or the reset input. -/
theorem step_state_cases {s t : State} (h : step s = .next t) :
    (∃ w, s.executes w ∧ exec (decodeCmd w) { s.spendTurn with pending := none } = .next t) ∨
    (∃ b rest, s.emits b ∧ s.emit = b :: rest ∧ t = s.spendTurn.emitHead b rest) ∨
    (∃ p r, (∀ w, ¬ s.executes w) ∧ (∀ b, ¬ s.emits b) ∧ ¬ s.resets ∧ (∀ o v, ¬ s.hostWrites o v) ∧ ¬ s.hostPops ∧
      t = { s.spendTurn with prog := p, results := r }) ∨
    (∃ p r l q, s.hostPops ∧
      t = { s.popOut with readPlace := q, sched := s.sched.tail, prog := p, results := r, log := l } ∧
      (s.hostPopsUnlogged → q = s.popOut.readPlace ∧ l = s.log) ∧
      (¬ s.hostPopsUnlogged → q = s.popAndLog.readPlace ∧ l = s.popAndLog.log)) ∨
    (∃ off v rest, s.hostWrites off v ∧ memWrite off v (s.spendTurn.goOn rest) = .next t) ∨
    (∃ next, s.resets ∧ t = s.spendTurn.clear.goOn next) := by
  rcases step_next_cases h with h | h | ⟨rfl, h1, h2, hr, h3⟩ | ⟨off, rest, hd, hp, _, _, rfl⟩ | ⟨off, v, rest, hd, hp, _, _, hm⟩ |
    ⟨a, rest, nx, hd, hp, ha, rfl⟩ | ⟨a, rest, nx, hd, hp, ha, rfl⟩ | ⟨rest, hd, rfl⟩
  · exact .inl h
  · exact .inr (.inl h)
  · exact .inr (.inr (.inl ⟨_, _, h1, h2, fun h => h.elim hr (h3 _), fun o v => h3 _,
      fun hp => by rcases hp with h | h | h <;> exact h3 _ h, rfl⟩))
  · rcases afterRead_cases off s.spendTurn with ⟨rfl, he⟩ | ⟨hn, he⟩
    · rw [he]
      refine .inr (.inr (.inr (.inl ⟨rest, s.results ++ [State.readValue 48 s.spendTurn], s.log, s.popOut.readPlace, .inl hd,
        ?_, fun _ => ⟨rfl, rfl⟩, fun hn => absurd hd hn⟩)))
      rw [spendTurn_popOut, popOut_eq s]
    · rw [he]
      refine .inr (.inr (.inl ⟨rest, _, hostDoes_not_executes hd, hostDoes_not_emits hd,
        hostDoes_not_resets hd (by simp), fun o v hw => (by cases hostDoes_unique hd hw), fun hp => ?_, rfl⟩))
      rcases hp with h | h | h
      · have := hostDoes_unique hd h
        simp only [HostStmt.bus.injEq, BusAccess.read.injEq] at this
        omega
      · cases hostDoes_unique hd h
      · cases hostDoes_unique hd h
  · exact .inr (.inr (.inr (.inr (.inl ⟨off, v, rest, hd, hm⟩))))
  · refine .inr (.inr (.inl ⟨nx, s.results, hostDoes_not_executes hd, hostDoes_not_emits hd, hostDoes_not_resets hd ?_, fun o v hw => ?_,
      fun hp => ?_, rfl⟩))
    · rcases ha with rfl | rfl | rfl <;> simp
    · have := hostDoes_unique hd hw; subst this; simp at ha
    · rcases hp with h | h | h <;> (have := hostDoes_unique hd h; subst this; simp at ha)
  · refine .inr (.inr (.inr (.inl ⟨nx, s.results, s.popAndLog.log, s.popAndLog.readPlace, ?_, ?_, fun hu => ?_,
      fun _ => ⟨rfl, rfl⟩⟩)))
    · rcases ha with rfl | rfl
      · exact .inr (.inl hd)
      · exact .inr (.inr hd)
    · rw [spendTurn_popAndLog, popAndLog_eq s, popOut_eq s]
      rfl
    · have := hostDoes_unique hd hu
      subst this
      simp at ha
  · exact .inr (.inr (.inr (.inr (.inr ⟨rest, hd, rfl⟩))))

end Sys2Proof.Machine
end

