-- ==== Sys2Proof/Tests/Slice0.lean ====
section
/-! SUPPORT. The model's own tests: ill-formed terms refused, words written out from the encodings of spec/30_encoding.md,
the vectors of spec/95_test_vectors.md (named L1, L2, L3 as there), and for every obligation with hypotheses a state and
operands that meet them. -/

namespace Sys2Proof.Tests

open Sys2Proof.Machine

set_option maxRecDepth 20000

/-- The next state of a result, if it is one. -/
def nextOf : Result → Option State
  | .next t => some t
  | .fault _ => none
  | .refused _ => none

/-- A PEE with room for 16 pixels and the smallest OUTFIFO. -/
def small : State := { State.reset with cfg := ⟨0, 16, 503⟩ }

/-- The 16 pixels of the worked examples (R131, R224, P2). -/
def samplePixels : List Bool :=
  [true, false, false, false, false, false, false, true, true, true, false, false, true, false, true, false]

/-- The raster of R224's example. -/
def label : State := { small with width := 8, height := 2, pixbuf := samplePixels }

/-- The same raster packed. -/
def packed : State := { label with bmpbuf := [0x81, 0x53] }

/-- An error state: DimensionMismatch by JOB (L2.9). -/
def failed : State := { small with err := true, errcode := 2, errop := 0x06 }

/-- A command word waits for its execute step. -/
def waiting (w : Word) (s : State) : State := { s with pending := some w, done := false }

/-- One block waits to be emitted. -/
def emitting (b : Block) (s : State) : State := { s with emit := [b], done := false }

/-- A block that fills the smallest OUTFIFO but for 8 bytes, so that a header does not fit. -/
def nearlyFull : State := { small with outfifo := [List.replicate 495 0x07] }

/-- The engine is held: a header waits, 8 bytes are free. -/
def heldState : State := { nearlyFull with emit := [Wire.header 0] }

/-- The host's turn, at a statement. -/
def hostAt (st : HostStmt) (s : State) : State := { s with sched := [.host], prog := [st] }

/-- The host's turn, at a write of a register of the window. -/
def writing (off : Nat) (v : Word) (s : State) : State := hostAt (.bus (.write (s.cfg.peeBase + off) 4 v)) s

/-! ### WellFormed: each check has a term it refuses -/

theorem test_wellFormed_illegal : (Instr.illegal 0 6).wellFormed = false := by decide

theorem test_wellFormed_printData_area : (Instr.wirePrintData 8 2 [0x81]).wellFormed = false := by decide

theorem test_wellFormed_chunk_size : (Instr.wireChunk 0 [0x05]).wellFormed = false := by decide

theorem test_wellFormed_chunk_index : (Instr.wireChunk 255 (List.replicate 500 0)).wellFormed = false := by decide

theorem test_wellFormed_chunkLast_size : (Instr.wireChunkLast 0 (List.replicate 501 0)).wellFormed = false := by decide

theorem test_wellFormed_chunkLast_empty : (Instr.wireChunkLast 1 []).wellFormed = false := by decide

theorem test_wellFormed_accepts :
    (Instr.illegal 0 7).wellFormed = true ∧ (Instr.illegal 1 0).wellFormed = true ∧
    (Instr.wirePrintData 8 2 [0x81, 0x53]).wellFormed = true ∧ (Instr.wirePrintData 0 5 []).wellFormed = true ∧
    (Instr.wireChunk 254 (List.replicate 500 0)).wellFormed = true ∧
    (Instr.wireChunkLast 0 []).wellFormed = true ∧
    (Instr.wireChunkLast 255 (List.replicate 500 0)).wellFormed = true := by decide

/-- PrintData's other check, the body length (R144): a bitmap one byte too long, by its length alone. -/
theorem test_wellFormed_printData_length : lenOK 4294967271 = true ∧ lenOK 4294967272 = false := by decide

/-! ### Decoding: a word of every constructor, written out from the encodings (R90..R101) -/

theorem test_decode_nop : decode .cmd [0x00, 0x00, 0x00, 0x00] = .ok (.nop, []) := by decide

theorem test_decode_clear : decode .cmd [0x01, 0x00, 0x00, 0x00] = .ok (.clear, []) := by decide

theorem test_decode_pack : decode .cmd [0x02, 0x00, 0x00, 0x00] = .ok (.pack, []) := by decide

theorem test_decode_build : decode .cmd [0x03, 0x00, 0x00, 0x00] = .ok (.build, []) := by decide

theorem test_decode_header : decode .cmd [0x04, 0x00, 0x00, 0x00] = .ok (.header, []) := by decide

theorem test_decode_frame : decode .cmd [0x05, 0x00, 0x00, 0x00] = .ok (.frame, []) := by decide

theorem test_decode_job : decode .cmd [0x06, 0x00, 0x00, 0x00] = .ok (.job, []) := by decide

theorem test_decode_illegal :
    decode .cmd [0x07, 0x00, 0x00, 0x00] = .ok (.illegal 0 0x07, []) ∧
    decode .cmd [0x00, 0x01, 0x00, 0x00] = .ok (.illegal 1 0x00, []) ∧
    decode .cmd [0xFF, 0xFF, 0xFF, 0xFF] = .ok (.illegal 0xFFFFFF 0xFF, []) := by decide

theorem test_decode_wireHeader :
    decode .jobHeader [0xFF, 0xF0, 0x12, 0x34, 0x04, 0x03, 0x02, 0x01, 0x3F] = .ok (.wireHeader 0x01020304, []) := by decide

theorem test_decode_wireStartJob :
    decode .command [0x1B, 0x73, 0x9A, 0x02, 0x00, 0x00] = .ok (.wireStartJob, []) := by decide

theorem test_decode_wirePrintData :
    decode .command [0x1B, 0x44, 0x01, 0x02, 0x20, 0x00, 0x00, 0x00, 0x01, 0x00, 0x00, 0x00, 0x0F, 0xF0, 0x00, 0xFF, 0x1B]
      = .ok (.wirePrintData 32 1 [0x0F, 0xF0, 0x00, 0xFF], [0x1B]) := by decide

theorem test_decode_wireFormFeed : decode .command [0x1B, 0x45] = .ok (.wireFormFeed, []) := by decide

theorem test_decode_wireStatus : decode .command [0x1B, 0x41] = .ok (.wireStatus, []) := by decide

theorem test_decode_wireEnd : decode .command [0x1B, 0x51] = .ok (.wireEnd, []) := by decide

theorem test_decode_wireChunk :
    decode (.chunk 501) ([0x00] ++ List.replicate 500 0x07) = .ok (.wireChunk 0 (List.replicate 500 0x07), []) := by decide

theorem test_decode_wireChunkLast :
    decode (.chunk 501) [0x01, 0xF4, 0x12, 0x34] = .ok (.wireChunkLast 1 [0xF4], []) ∧
    decode (.chunk 0) [0x00, 0x12, 0x34] = .ok (.wireChunkLast 0 [], []) := by decide

/-- The trailer is found by its place, not its value (R103). -/
theorem test_decode_trailer_by_place :
    decode (.chunk 4) [0x00, 0x12, 0x34, 0x12, 0x34, 0x12, 0x34] = .ok (.wireChunkLast 0 [0x12, 0x34, 0x12, 0x34], []) := by
  decide

theorem test_decode_rejects :
    decode .cmd [0x00, 0x00, 0x00] = .error .truncated ∧
    decode .jobHeader [0xFF, 0xF1, 0x12, 0x34, 0x00, 0x00, 0x00, 0x00, 0x35] = .error .headerPrefix ∧
    decode .jobHeader [0xFF, 0xF0, 0x12, 0x34, 0xCD, 0x02, 0x00, 0x00, 0xE6] = .error .checksum ∧
    decode .command [0x1C, 0x45] = .error .escape ∧
    decode .command [0x1B, 0x46] = .error .commandByte := by decide

theorem test_decode_rejects_fields :
    decode .command [0x1B, 0x73, 0x9A, 0x02, 0x00, 0x01] = .error .constant ∧
    decode .command [0x1B, 0x44, 0x01, 0x02, 0x03, 0x00, 0x00, 0x00, 0x03, 0x00, 0x00, 0x00] = .error .area ∧
    decode .command [0x1B, 0x44, 0x01, 0x02, 0xFF, 0xFF, 0xFF, 0xFF, 0x08, 0x00, 0x00, 0x00] = .error .bodyLength := by decide

theorem test_decode_rejects_chunks :
    decode (.chunk 128001) [0x00] = .error .notFramable ∧
    decode (.chunk 500) [0x01] = .error .chunkIndex ∧
    decode (.chunk 1) [0x00, 0x05, 0x34, 0x12] = .error .trailer := by decide

theorem test_decodeTableWord_commands :
    (List.range 8).map (decodeTableWord 32) =
      [some .nop, some .clear, some .pack, some .build, some .header, some .frame, some .job, some (.illegal 0 7)] := by
  decide

/-- The first byte of a wire row stands in the lowest bits. -/
theorem test_decodeTableWord_wire :
    decodeTableWord 72 0x04000002CD3412F0FF = some (.wireHeader 717) ∧
    decodeTableWord 48 0x0000029A731B = some .wireStartJob ∧
    decodeTableWord 112 0x538100000002000000080201441B = some (.wirePrintData 8 2 [0x81, 0x53]) ∧
    decodeTableWord 16 0x451B = some .wireFormFeed ∧ decodeTableWord 16 0x411B = some .wireStatus ∧
    decodeTableWord 16 0x511B = some .wireEnd ∧ decodeTableWord 24 0x341200 = some (.wireChunkLast 0 []) ∧
    decodeTableWord 4008 0 = some (.wireChunk 0 (List.replicate 500 0)) := by decide

/-! ### The wire functions (L2.1 to L2.5) -/

theorem test_le32 : Wire.le32 0x01020304 = [0x04, 0x03, 0x02, 0x01] ∧ Wire.le32 0x80000000 = [0x00, 0x00, 0x00, 0x80] := by
  decide

theorem test_pack_bits :
    Wire.pack [false, true, false, true, false, true, false, true, false, true, false, true, false, true, false, true]
      = [0xAA, 0xAA] ∧
    Wire.pack ([true] ++ List.replicate 15 false ++ [true]) = [0x01, 0x00, 0x01] := by decide

theorem test_checksum_vectors :
    [0, 1, 24, 255, 256, 499, 717, 1001, 65791, 127501, 128001, 0x01020304, 0x80000000, 0xFFFFFFFF].map Wire.checksum
      = [0x35, 0x36, 0x4D, 0x34, 0x36, 0x29, 0x04, 0x21, 0x35, 0x35, 0x2B, 0x3F, 0xB5, 0x31] := by decide

theorem test_nchunks_vectors :
    [0, 1, 499, 500, 501, 717, 1000, 1001, 127500, 127501, 128000, 128001].map Wire.nchunks
      = [1, 1, 1, 1, 2, 2, 2, 3, 255, 256, 256, 257] := by decide

theorem test_chunks_501 :
    (Wire.chunks (List.replicate 500 0x07 ++ [0xF4])).map List.length = [501, 4] ∧
    (Wire.chunks (List.replicate 500 0x07 ++ [0xF4])).getD 1 [] = [0x01, 0xF4, 0x12, 0x34] := by decide

/-! ### The commands, one execute step each -/

/-- R222: not even OVR, while a command is pending. -/
theorem test_nop : nextOf (memWrite 0x00 0 (waiting 4 small)) = some (waiting 4 small) := by decide

/-- R223: the error is gone, and the pixels with it. -/
theorem test_clear :
    nextOf (exec .clear { failed with width := 24, pixbuf := [true], outfifo := [[0x01]], ovr := true }) = some small := by
  decide

/-- L2.2: `pix 1 1 1 ; run PACK`. -/
theorem test_pack :
    (nextOf (exec .pack { small with pixbuf := [true, true, true] })).map
      (fun t => (t.bmpbuf, t.readValue 0x14, t.readValue 0x18, t.readValue 0x04)) = some ([0x07], 3, 1, 0x00000002) := by decide

/-- L2.3: `body(8, 2, [81 53])`. -/
theorem test_build :
    (nextOf (exec .build packed)).map (fun t => (t.bodybuf, t.bodylen)) =
      some ([0x1B, 0x73, 0x9A, 0x02, 0x00, 0x00, 0x1B, 0x44, 0x01, 0x02, 0x08, 0x00, 0x00, 0x00, 0x02, 0x00, 0x00, 0x00, 0x81,
        0x53, 0x1B, 0x45, 0x1B, 0x41, 0x1B, 0x51], 26) := by decide

/-- L2.3: the area is exact: 65536 × 65536 is not 0. -/
theorem test_build_mismatch :
    (nextOf (exec .build { small with width := 65536, height := 65536 })).map (fun t => (t.readValue 0x04, t.bodylen)) =
      some (0x00000324, 0) := by decide

/-- L2.4: `wr BODYLEN, 717 ; cmd HEADER`. -/
theorem test_header :
    (nextOf (exec .header { small with bodylen := 717 })).map (fun t => (t.csum, t.emit)) =
      some (0x04, [[0xFF, 0xF0, 0x12, 0x34, 0xCD, 0x02, 0x00, 0x00, 0x04]]) := by decide

/-- L2.5: FRAME after reset. -/
theorem test_frame :
    (nextOf (exec .frame small)).map (fun t => (t.chunkcnt, t.emit)) = some (1, [[0x00, 0x12, 0x34]]) := by decide

/-- P2: the two blocks. -/
theorem test_job :
    (nextOf (exec .job label)).map (fun t => (t.emit, t.csum, t.chunkcnt, t.bodylen)) =
      some ([[0xFF, 0xF0, 0x12, 0x34, 0x1A, 0x00, 0x00, 0x00, 0x4F],
        [0x00, 0x1B, 0x73, 0x9A, 0x02, 0x00, 0x00, 0x1B, 0x44, 0x01, 0x02, 0x08, 0x00, 0x00, 0x00, 0x02, 0x00, 0x00, 0x00, 0x81,
         0x53, 0x1B, 0x45, 0x1B, 0x41, 0x1B, 0x51, 0x12, 0x34]], 0x4F, 1, 26) := by decide

/-- L2.9: DimensionMismatch by JOB, which keeps BMPBUF. -/
theorem test_job_mismatch :
    (nextOf (exec .job { label with height := 3, bmpbuf := [0x01] })).map (fun t => (t.readValue 0x04, t.bmpbuf, t.emit)) =
      some (0x00000624, [0x01], []) := by decide

/-- L2.7: the words 0x07, 0xFF, 0x100 and 0xFFFFFFFF. -/
theorem test_illegal :
    [0x07, 0xFF, 0x100, 0xFFFFFFFF].map
      (fun w => (nextOf (engineStep (waiting w small))).map (fun t => t.readValue 0x04)) =
      [some 0x00000754, some 0x0000FF54, some 0x00000054, some 0x0000FF54] := by decide

theorem test_wireHeader :
    (nextOf (exec (.wireHeader 24) (emitting [0xFF, 0xF0, 0x12, 0x34, 0x18, 0x00, 0x00, 0x00, 0x4D] small))).map
      (fun t => (t.outLevel, t.emit, t.done)) = some (9, [], true) := by decide

theorem test_wireChunk :
    (nextOf (exec (.wireChunk 0 (List.replicate 500 0x07)) (emitting ([0x00] ++ List.replicate 500 0x07) small))).map
      (fun t => (t.outLevel, t.emit)) = some (501, []) := by decide

theorem test_wireChunkLast :
    (nextOf (exec (.wireChunkLast 1 [0xF4]) (emitting [0x01, 0xF4, 0x12, 0x34] small))).map
      (fun t => (t.outfifo, t.emit)) = some ([[0x01, 0xF4, 0x12, 0x34]], []) := by decide

/-- A block that is not the head of EMIT is not emitted. -/
theorem test_wireChunkLast_not_head :
    nextOf (exec (.wireChunkLast 1 [0xF5]) (emitting [0x01, 0xF4, 0x12, 0x34] small))
      = some (emitting [0x01, 0xF4, 0x12, 0x34] small) := by decide

theorem test_wireStartJob : (nextOf (exec .wireStartJob small)).map (·.bodybuf) = some [0x1B, 0x73, 0x9A, 0x02, 0x00, 0x00] := by
  decide

theorem test_wirePrintData :
    (nextOf (exec (.wirePrintData 8 1 [0x03]) { small with bodybuf := [0x00] })).map (·.bodybuf) =
      some [0x00, 0x1B, 0x44, 0x01, 0x02, 0x08, 0x00, 0x00, 0x00, 0x01, 0x00, 0x00, 0x00, 0x03] := by decide

theorem test_wireFormFeed : (nextOf (exec .wireFormFeed small)).map (·.bodybuf) = some [0x1B, 0x45] := by decide

theorem test_wireStatus : (nextOf (exec .wireStatus small)).map (·.bodybuf) = some [0x1B, 0x41] := by decide

theorem test_wireEnd : (nextOf (exec .wireEnd small)).map (·.bodybuf) = some [0x1B, 0x51] := by decide

/-! ### The window (L2.8), errors and the step -/

theorem test_pixin_ignores_upper_bits :
    (nextOf (memWrite 0x10 0xFFFFFFFE small)).map (·.pixbuf) = some [false] ∧
    (nextOf (memWrite 0x10 0x00000003 small)).map (·.pixbuf) = some [true] := by decide

/-- L2.6: the pixel that does not fit is dropped. -/
theorem test_pixin_overflow :
    (nextOf (memWrite 0x10 1 label)).map (fun t => (t.readValue 0x14, t.readValue 0x04)) = some (16, 0x0000FF64) := by decide

/-- L2.7: `cmd HEADER`, then `wr BODYLEN, 5`, then two engine steps. -/
theorem test_write_while_busy :
    (nextOf (memWrite 0x1C 5 (waiting 4 small))).map
      (fun t => (nextOf (engineSteps 2 t)).map (fun u => (u.bodylen, u.outLevel, u.readValue 0x04)))
      = some (some (0, 9, 0x0000000A)) := by decide

/-- L2.7: JOB is rejected in the error state, with no OVR. -/
theorem test_error_rejects : nextOf (memWrite 0x00 6 failed) = some failed := by decide

theorem test_refused_access :
    hostStep { small with prog := [.bus (.read 0x02 4)] } = .refused (.accessNotAdmitted 0x02 4) ∧
    hostStep { small with prog := [.bus (.read 0x04 1)] } = .refused (.accessNotAdmitted 0x04 1) ∧
    hostStep { small with prog := [.bus (.write 0x100 4 0)] } = .refused (.accessNotAdmitted 0x100 4) := ⟨rfl, rfl, rfl⟩

/-- R303: a block runs from a first byte to its LAST byte; the bytes of one that CLEAR cut off, of one of which a byte was read
outside the record, and of one not yet ended are no block and join none. -/
theorem test_splitBlocks :
    splitBlocks none [⟨0x00, .first, false⟩, ⟨0x12, .next, false⟩, ⟨0x34, .next, true⟩, ⟨0x05, .first, true⟩,
      ⟨0x06, .first, false⟩] = [[0x00, 0x12, 0x34], [0x05]] ∧
    splitBlocks none [⟨0xFF, .first, false⟩, ⟨0x05, .first, true⟩] = [[0x05]] ∧
    splitBlocks none [⟨0xFF, .first, false⟩, ⟨0x12, .gap, false⟩, ⟨0x34, .gap, true⟩, ⟨0x05, .first, true⟩] = [[0x05]] := by
  decide

/-- A plain `rd` of a block's first byte (the state after CLEAR cut off FF), then two logged reads: nothing joins FF. -/
theorem test_plain_read_leaves_a_gap :
    (((nextOf (hostStep { small with
      outfifo := [[0x00, 0x12, 0x34]], log := [⟨0xFF, .first, false⟩], prog := [.bus (.read 0x30 4), .drain] })).bind
        (fun t => nextOf (hostStep t))).bind (fun t => nextOf (hostStep t))).map (fun t => (t.log, t.loggedBlocks))
      = some ([⟨0xFF, .first, false⟩, ⟨0x12, .gap, false⟩, ⟨0x34, .gap, true⟩], []) := by decide

/-- R95: `run CLEAR` over an unread block pops its first byte before CLEAR runs; the byte read next is a first byte again. -/
theorem test_clear_cuts_a_block :
    (nextOf (step (hostAt .runPop (waiting 1 { small with outfifo := [[0x00, 0x12, 0x34]] })))).map
      (fun t => (t.log, t.readPlace, (nextOf (step t)).map (·.readPlace)))
      = some ([⟨0x00, .first, false⟩], .next, some .first) := by decide

/-- R290: the reset input is enabled in every state: while the engine is held, with the host inside a loop. -/
theorem test_reset_turn :
    (nextOf (step { heldState with sched := [.reset], prog := [.runStatus] })).map
      (fun t => (t.busy, t.outfifo, t.prog, t.sched)) = some (false, [], [.runStatus], []) := by decide

theorem test_withFetchWord :
    nextOf (step (State.reset.withFetchWord 32 0)) = some State.reset ∧
    nextOf (step (State.reset.withFetchWord 32 7)) = nextOf (exec (.illegal 0 7) State.reset) ∧
    (nextOf (step (State.reset.withFetchWord 72 0x350000000003412F0FF))).isSome = true := by decide

/-! ### Witnesses: the invariant -/

theorem small_inv : small.Inv where
  cfg := by decide
  bounded := ⟨by decide, by decide, by decide, by decide, by decide, by decide, by decide, by decide, by decide⟩
  pendingAlone := by decide
  pendingWord := by decide
  pendingInError := by decide
  quietInError := by decide
  readPlace := by decide

theorem label_waiting_inv : (waiting 6 label).Inv where
  cfg := by decide
  bounded := ⟨by decide, by decide, by decide, by decide, by decide, by decide, by decide, by decide, by decide⟩
  pendingAlone := by decide
  pendingWord := by decide
  pendingInError := by decide
  quietInError := by decide
  readPlace := by decide

theorem failed_inv : (waiting 1 failed).Inv where
  cfg := by decide
  bounded := ⟨by decide, by decide, by decide, by decide, by decide, by decide, by decide, by decide, by decide⟩
  pendingAlone := by decide
  pendingWord := by decide
  pendingInError := by decide
  quietInError := by decide
  readPlace := by decide

/-! ### Witnesses: encodings and wire functions -/

/-- Illegal words at the edges of both fields, and a state for the raise. -/
theorem witness_LegalWordsExactlyOpcodes0To6 :
    ¬ ((0x07 : Word) >>> 8 = 0 ∧ (0x07 : Word) &&& 0xFF ≤ 6) ∧ ¬ ((0xFF : Word) >>> 8 = 0 ∧ (0xFF : Word) &&& 0xFF ≤ 6) ∧
    ¬ ((0x100 : Word) >>> 8 = 0 ∧ (0x100 : Word) &&& 0xFF ≤ 6) ∧
    ¬ ((0xFFFFFFFF : Word) >>> 8 = 0 ∧ (0xFFFFFFFF : Word) &&& 0xFF ≤ 6) ∧ small.err = false := by decide

/-- An instruction for each place, a last chunk of 500 bytes with index 255 among them. -/
theorem witness_DecodeOfEncode :
    (Instr.illegal 1 0).wellFormed = true ∧ (Instr.illegal 1 0).standsIn .cmd = true ∧
    (Instr.wireHeader 0).standsIn .jobHeader = true ∧
    (Instr.wirePrintData 8 2 [0x81, 0x53]).wellFormed = true ∧
    (Instr.wirePrintData 8 2 [0x81, 0x53]).standsIn .command = true ∧
    (Instr.wireChunkLast 0 []).wellFormed = true ∧ (Instr.wireChunkLast 0 []).standsIn (.chunk 0) = true := by decide

theorem witness_DecodeOfEncode_chunks :
    (Instr.wireChunk 254 (List.replicate 500 0)).wellFormed = true ∧
    (Instr.wireChunk 254 (List.replicate 500 0)).standsIn (.chunk 128000) = true ∧
    (Instr.wireChunkLast 255 (List.replicate 500 0)).wellFormed = true ∧
    (Instr.wireChunkLast 255 (List.replicate 500 0)).standsIn (.chunk 128000) = true := by decide

theorem witness_DecodedBytesAreTheEncoding : decode (.chunk 1) [0x00, 0x05, 0x12, 0x34, 0xFF] =
    .ok (.wireChunkLast 0 [0x05], [0xFF]) := by decide

theorem witness_Le32LittleEndian : Wire.le32 0xFFFFFFFF = [0xFF, 0xFF, 0xFF, 0xFF] := by decide

theorem witness_PackPutsPixelsLsbFirst :
    (List.replicate 9 true).length = 3 * 3 ∧ 1 < (Wire.pack (List.replicate 9 true)).length ∧ 7 < 8 := by decide

theorem witness_CommandBlockLayouts : 3 < 4 ∧ 1 < ([0x81, 0x53] : List Byte).length := by decide

theorem witness_JobBodyLayout : dimOK 32 1 ([0x0F, 0xF0, 0x00, 0xFF] : List Byte).length = true := by decide

/-- A raster short by 7 pixels, one that is whole, one of an area that is no multiple of 8, one of width 32. -/
theorem witness_DimensionCheck :
    ((8 : Word).toNat * (1 : Word).toNat % 8 = 0 ∧ [true].length ≤ (8 : Word).toNat * (1 : Word).toNat ∧
      (8 : Word).toNat * (1 : Word).toNat < [true].length + 8) ∧
    samplePixels.length = (8 : Word).toNat * (2 : Word).toNat ∧
    (List.replicate 9 true).length = (3 : Word).toNat * (3 : Word).toNat ∧
    (List.replicate 32 true).length = (32 : Word).toNat * (1 : Word).toNat := by decide

theorem witness_LengthOverflowUnreachable :
    (waiting 6 label).Inv ∧ (waiting 6 label).err = false ∧ ∃ t, step (waiting 6 label) = .next t :=
  ⟨label_waiting_inv, rfl, _, rfl⟩

theorem witness_HeaderAndAdditiveChecksum : Wire.byteSum (Wire.le32 0x000100FF) % 256 = Wire.byteSum (Wire.le32 0) % 256 := by
  decide

theorem witness_ChunkCount : (1 : Nat) ≤ 1 := by decide

/-- A body of one chunk, an empty one, and one whose last chunk holds one byte, with its chunks' indices. -/
theorem witness_ChunkContents :
    ([0x05] : List Byte).length ≤ 128000 ∧ ([0x05] : List Byte) ≠ [] ∧ 0 < Wire.nchunks ([0x05] : List Byte).length ∧
    ([] : List Byte).length ≤ 128000 ∧ (List.replicate 501 (0x07 : Byte)).length ≤ 128000 ∧
    0 < Wire.nchunks (List.replicate 501 (0x07 : Byte)).length - 1 ∧
    1 < Wire.nchunks (List.replicate 501 (0x07 : Byte)).length := by decide

theorem witness_ChunksReconstructTheBody : ([] : List Byte).length ≤ 128000 := by decide

/-! ### Witnesses: reset, STATUS and the commands -/

/-- The reset input, while a command is emitting. -/
theorem witness_ResetAndClearGiveTheResetTable :
    ({ heldState with sched := [.reset] } : State).nextAgent = .reset ∧
    ({ heldState with sched := [.reset] } : State).busy = true := by decide

/-- The smallest and the largest parameters. -/
theorem witness_AfterResetIdleAndJobSucceeds :
    (Config.mk 0 1 503).Valid ∧ (Config.mk 0 4294967295 4294967295).Valid ∧
    ({ State.reset with cfg := ⟨0, 1, 503⟩ } : State) = { State.reset with cfg := ⟨0, 1, 503⟩ } := by decide

theorem witness_StatusFieldsAndReservedBits :
    (0x34 % 4 = 0 ∧ 0x34 ≤ 0x34 ∧ 0x34 ≤ 0xFC) ∧ (0xFC % 4 = 0 ∧ 0x34 ≤ 0xFC ∧ 0xFC ≤ 0xFC) := by decide

theorem witness_DoneRules_acceptance :
    small.busy = false ∧ (4 : Word) ≠ 0 ∧ small.err = false ∧ failed.busy = false ∧ failed.err = true := by decide

/-- A step with DONE = 0, one that completes PACK, and one that does not complete JOB. -/
theorem witness_DoneRules_completion :
    (waiting 6 label).Inv ∧ (∃ t, step (waiting 6 label) = .next t ∧ t.done = false) ∧ (waiting 6 label).done = false ∧
    ∃ t, step (waiting 2 label) = .next t ∧ t.done = true :=
  ⟨label_waiting_inv, ⟨_, rfl, rfl⟩, rfl, ⟨_, rfl, rfl⟩⟩

theorem done_inv : ({ label with done := true } : State).Inv where
  cfg := by decide
  bounded := ⟨by decide, by decide, by decide, by decide, by decide, by decide, by decide, by decide, by decide⟩
  pendingAlone := by decide
  pendingWord := by decide
  pendingInError := by decide
  quietInError := by decide
  readPlace := by decide

/-- The invariant says nothing of the host. -/
theorem hostAt_inv {s : State} (h : s.Inv) (st : HostStmt) : (hostAt st s).Inv where
  cfg := h.cfg
  bounded := ⟨h.bounded.pixcnt, h.bounded.outlevel, h.bounded.chunkcnt, h.bounded.bmplen, h.bounded.bodylen, h.bounded.done,
    h.bounded.noError, h.bounded.outBlocks, h.bounded.emitBlocks⟩
  pendingAlone := h.pendingAlone
  pendingWord := h.pendingWord
  pendingInError := h.pendingInError
  quietInError := h.quietInError
  readPlace := h.readPlace

/-- A step from DONE = 1, and each of the three ways to clear it. -/
theorem witness_DoneRules_cleared :
    (∀ st, (hostAt st { label with done := true }).Inv ∧ (hostAt st { label with done := true }).done = true) ∧
    (∃ t, step (hostAt .drain { label with done := true }) = .next t ∧ t.done = true) ∧
    (∃ t, step (writing 0x00 4 { label with done := true }) = .next t ∧ t.done = false) ∧
    (∃ t, step (writing 0x10 1 { label with done := true }) = .next t ∧ t.done = false) ∧
    ∃ t, step (hostAt .reset { label with done := true }) = .next t ∧ t.done = false :=
  ⟨fun st => ⟨hostAt_inv done_inv st, rfl⟩, ⟨_, rfl, rfl⟩, ⟨_, rfl, rfl⟩, ⟨_, rfl, rfl⟩, ⟨_, rfl, rfl⟩⟩

theorem witness_DoneRules_emission :
    (emitting (Wire.header 0) small).emits (Wire.header 0) ∧ (emitting (Wire.header 0) small).emit = [Wire.header 0] := by decide

/-- OVR by each port while busy, and its end by CLEAR. -/
theorem witness_OvrRules :
    (∀ off ∈ [0x00, 0x08, 0x0C, 0x10, 0x1C], (writing off 5 (waiting 4 small)).hostWrites off 5) ∧
    (∀ off ∈ [0x00, 0x08, 0x0C, 0x10, 0x1C],
      (nextOf (step (writing off 5 (waiting 4 small)))).map (·.ovr) = some true) ∧
    (waiting 4 small).ovr = false ∧ (waiting 4 small).busy = true ∧
    (nextOf (step (waiting 1 { small with ovr := true }))).map (·.ovr) = some false ∧
    (waiting 1 { small with ovr := true }).clears := by decide

theorem witness_OvrRules_no_block :
    ({ small with ovr := true } : State).ovr = true ∧ ({ small with ovr := true } : State).busy = false ∧
    ({ small with ovr := true } : State).err = false ∧ (6 : Word) ≠ 0 := by decide

theorem witness_NopChangesNothing : small.err = false := by decide

theorem witness_ClearCommand :
    failed.busy = false ∧ failed.err = true ∧ (6 : Word) ≠ 0 ∧ (6 : Word) ≠ 1 ∧ heldState.busy = true := by decide

/-- Nothing emitting; an empty PIXBUF; three ink pixels, whose byte has 5 padding bits. -/
theorem witness_PackCommand :
    small.emit = [] ∧ small.pixbuf = [] ∧ ({ small with pixbuf := [true, true, true] } : State).pixbuf = [true, true, true] ∧
    (7 < 8 ∧ [true, true, true].length ≤ 8 * (1 - 1) + 3) := by decide

/-- A BUILD that succeeds, one that mismatches, one on an empty bitmap, and 65536 × 65536. -/
theorem witness_BuildCommand :
    (packed.width.toNat * packed.height.toNat = 8 * packed.bmpbuf.length ∧ 24 + packed.bmpbuf.length ≤ 2 ^ 32 - 1) ∧
    (label.err = false ∧ label.width.toNat * label.height.toNat ≠ 8 * label.bmpbuf.length) ∧
    (small.bmpbuf = [] ∧ small.width = 0) ∧
    (({ small with width := 65536, height := 65536 } : State).width = 65536 ∧
      ({ small with width := 65536, height := 65536 } : State).height = 65536 ∧
      ({ small with width := 65536, height := 65536 } : State).err = false) ∧
    (packed.width = 8 ∧ packed.height = 2 ∧ packed.bmpbuf = [0x81, 0x53]) := by decide

theorem long_bitmap (n : Nat) (h : 0x80000000 * 16 = 8 * n) (hn : 2 ^ 32 - 1 < 24 + n) : ∃ s : State, s.err = false ∧
    s.width.toNat * s.height.toNat = 8 * s.bmpbuf.length ∧ 2 ^ 32 - 1 < 24 + s.bmpbuf.length :=
  ⟨{ small with width := 0x80000000, height := 16, bmpbuf := List.replicate n 0 }, rfl,
    by rw [List.length_replicate]; exact h, by rw [List.length_replicate]; exact hn⟩

/-- A bitmap BUILD's length check refuses, with an area that passes the dimension check (it is no state of a run). -/
theorem witness_BuildCommand_length : ∃ s : State, s.err = false ∧
    s.width.toNat * s.height.toNat = 8 * s.bmpbuf.length ∧ 2 ^ 32 - 1 < 24 + s.bmpbuf.length :=
  long_bitmap 4294967296 (by decide) (by decide)

/-- Room for exactly one header, and room for one byte less. -/
theorem witness_HeaderCommand :
    ((waiting 4 { small with outfifo := [List.replicate 494 0x07] }).pending = some 4 ∧
      (waiting 4 { small with outfifo := [List.replicate 494 0x07] }).emit = [] ∧
      (waiting 4 { small with outfifo := [List.replicate 494 0x07] }).outLevel + 9 ≤ 503) ∧
    ((waiting 4 nearlyFull).pending = some 4 ∧ (waiting 4 nearlyFull).cfg.outCap < (waiting 4 nearlyFull).outLevel + 9) ∧
    small.bodylen = 0 ∧ ({ small with bodylen := 717 } : State).bodylen = 717 := by decide

/-- A step that keeps CSUM, a JOB that fails, a HEADER and a JOB that succeed. -/
theorem witness_ChecksumRegisterKept :
    (∃ t, step (waiting 3 packed) = .next t ∧ ¬ (waiting 3 packed).executes 4 ∧ ¬ (waiting 3 packed).executes 6 ∧
      ¬ (waiting 3 packed).clears) ∧
    (∃ t, step (waiting 6 { label with height := 3 }) = .next t ∧ (waiting 6 { label with height := 3 }).executes 6 ∧
      ({ label with height := 3 } : State).err = false ∧ t.err = true) ∧
    (∃ t, exec .header small = .next t) ∧
    ∃ t, exec .job label = .next t ∧ label.err = false ∧ t.err = false :=
  ⟨⟨_, rfl, by decide⟩, ⟨_, rfl, by decide⟩, ⟨_, rfl⟩, ⟨_, rfl, by decide⟩⟩

/-- An empty body, one of 26 bytes, and room in OUTFIFO for exactly its chunk. -/
theorem witness_FrameCommand :
    (small.bodybuf.length ≤ 128000 ∧ small.bodybuf = []) ∧
    ({ small with bodybuf := List.replicate 26 0x07 } : State).bodybuf.length = 26 ∧
    ((waiting 5 { small with bodybuf := List.replicate 26 0x07, outfifo := [List.replicate 474 0] }).pending = some 5 ∧
      (waiting 5 { small with bodybuf := List.replicate 26 0x07, outfifo := [List.replicate 474 0] }).emit = [] ∧
      (waiting 5 { small with bodybuf := List.replicate 26 0x07, outfifo := [List.replicate 474 0] }).outLevel + 26 +
        Wire.nchunks 26 + 2 ≤ 503) := by decide

theorem long_body (n : Nat) (h : 128000 < n) : ∃ s : State, s.err = false ∧ 128000 < s.bodybuf.length :=
  ⟨{ small with bodybuf := List.replicate n 0 }, rfl, by rw [List.length_replicate]; exact h⟩

/-- A chunk that does not fit. -/
theorem witness_FrameCommand_wait :
    heldState.pending = none ∧ heldState.emit = Wire.header 0 :: [] ∧
    heldState.cfg.outCap < heldState.outLevel + (Wire.header 0).length := by decide

/-- The least body that is not framable. -/
theorem witness_FrameCommand_limit : ∃ s : State, s.err = false ∧ 128000 < s.bodybuf.length := long_body 128001 (by decide)

theorem witness_JobCommand :
    (label.width.toNat * label.height.toNat = 8 * (Wire.pack label.pixbuf).length ∧
      24 + (Wire.pack label.pixbuf).length ≤ 128000) ∧
    (({ label with height := 3 } : State).err = false ∧ ({ label with height := 3 } : State).width.toNat *
      ({ label with height := 3 } : State).height.toNat ≠ 8 * (Wire.pack label.pixbuf).length) ∧
    ((waiting 6 label).pending = some 6 ∧ (waiting 6 label).emit = [] ∧
      (waiting 6 label).outLevel + 9 + (24 + (Wire.pack label.pixbuf).length) +
        Wire.nchunks (24 + (Wire.pack label.pixbuf).length) + 2 ≤ (waiting 6 label).cfg.outCap) ∧
    label.width = 8 ∧ label.height = 2 ∧ label.pixbuf = samplePixels := by decide

theorem long_raster (w h : Word) (n : Nat) : ∃ s : State, s.err = false ∧ s.width = w ∧ s.height = h ∧
    (Wire.pack s.pixbuf).length = (n + 7) / 8 :=
  ⟨{ small with width := w, height := h, pixbuf := List.replicate n false }, rfl, rfl, rfl,
    by rw [Wire.pack_length, List.length_replicate]⟩

/-- Rasters whose body is not framable, and is too long. -/
theorem witness_JobCommand_limits :
    (∃ s : State, s.err = false ∧ s.width.toNat * s.height.toNat = 8 * (Wire.pack s.pixbuf).length ∧
      24 + (Wire.pack s.pixbuf).length ≤ 2 ^ 32 - 1 ∧ 128000 < 24 + (Wire.pack s.pixbuf).length) ∧
    ∃ s : State, s.err = false ∧ s.width.toNat * s.height.toNat = 8 * (Wire.pack s.pixbuf).length ∧
      2 ^ 32 - 1 < 24 + (Wire.pack s.pixbuf).length := by
  obtain ⟨s, he, hw, hh, hl⟩ := long_raster 8 127977 1023816
  obtain ⟨t, he', hw', hh', hl'⟩ := long_raster 0x80000000 16 34359738368
  exact ⟨⟨s, he, by rw [hw, hh, hl]; decide, by rw [hl]; decide, by rw [hl]; decide⟩,
    ⟨t, he', by rw [hw', hh', hl']; decide, by rw [hl']; decide⟩⟩

theorem witness_IllegalWordRaises :
    ((0x00000107 : Word) >>> 8 ≠ 0 ∨ 6 < ((0x00000107 : Word) &&& 0xFF).toNat) ∧ 6 < ((0x07 : Word) &&& 0xFF).toNat ∧
    (waiting 0x07 small).pending = some 0x07 ∧ (waiting 0x07 small).emit = [] ∧ (waiting 0x07 small).err = false := by decide

theorem witness_JobEqualsUnitCommands :
    label.busy = false ∧ label.err = false ∧
    dimOK label.width label.height (Wire.pack label.pixbuf).length = true ∧ 24 + (Wire.pack label.pixbuf).length ≤ 128000 ∧
    label.outLevel + 9 + (24 + (Wire.pack label.pixbuf).length) + Wire.nchunks (24 + (Wire.pack label.pixbuf).length) + 2
      ≤ label.cfg.outCap := by decide

theorem witness_ExecFrames :
    (∃ t, exec .nop small = .next t) ∧ (∃ t, exec .pack label = .next t) ∧ (∃ t, exec .build packed = .next t) ∧
    (∃ t, exec .header small = .next t) ∧ (∃ t, exec .frame small = .next t) ∧ (∃ t, exec .job label = .next t) ∧
    ∃ t, exec (.illegal 0 7) small = .next t :=
  ⟨⟨_, rfl⟩, ⟨_, rfl⟩, ⟨_, rfl⟩, ⟨_, rfl⟩, ⟨_, rfl⟩, ⟨_, rfl⟩, ⟨_, rfl⟩⟩

/-! ### Witnesses: the wire rows -/

/-- Each emitted row as the head of EMIT with room, and the three ways a row does nothing. -/
theorem witness_WireBlocksAreEmitted :
    ((emitting (Wire.header 0) small).pending = none ∧ (emitting (Wire.header 0) small).emit = Wire.header 0 :: [] ∧
      (emitting (Wire.header 0) small).outLevel + 9 ≤ 503) ∧
    ((emitting [0x00, 0x07] small).emit = ([0x00] ++ [0x07]) :: [] ∧ (emitting [0x00, 0x07] small).outLevel + 2 ≤ 503) ∧
    ((emitting [0x01, 0xF4, 0x12, 0x34] small).emit = ([0x01] ++ [0xF4] ++ [0x12, 0x34]) :: []) ∧
    (waiting 4 small).pending ≠ none ∧ small.emit.head? ≠ some (encode (.wireHeader 0)) ∧
    heldState.cfg.outCap < heldState.outLevel + (encode (.wireHeader 0)).length := by decide

theorem witness_WireCommandBlocksBuildTheBody :
    ∃ a b c d e t : State, packed.bodybuf = [] ∧ exec .wireStartJob packed = .next a ∧
      exec (.wirePrintData packed.width packed.height packed.bmpbuf) a = .next b ∧ exec .wireFormFeed b = .next c ∧
      exec .wireStatus c = .next d ∧ exec .wireEnd d = .next e ∧ exec .build packed = .next t ∧ t.err = false :=
  ⟨_, _, _, _, _, _, rfl, rfl, rfl, rfl, rfl, rfl, rfl, rfl⟩

theorem witness_JobStreamReadBack : ∃ t, exec .job label = .next t ∧ t.err = false := ⟨_, rfl, rfl⟩

/-! ### Witnesses: errors -/

theorem witness_ErrorAction : small.err = false ∧ failed.err = true := by decide

/-- A step in the error state that does not clear, and one that does. -/
theorem witness_FirstErrorSticks :
    (∃ t, step (writing 0x10 1 failed) = .next t ∧ (writing 0x10 1 failed).err = true ∧ ¬ (writing 0x10 1 failed).clears) ∧
    (∃ t, step (waiting 1 failed) = .next t ∧ (waiting 1 failed).clears) ∧
    (waiting 1 failed).Inv ∧ (waiting 1 failed).err = true ∧ (waiting 1 failed).executes 1 :=
  ⟨⟨_, rfl, by decide⟩, ⟨_, rfl, by decide⟩, failed_inv, by decide, by decide⟩

theorem witness_ErrorsAreAllOrNothing :
    (∃ t, label.pending = none ∧ label.emit = [] ∧ label.err = false ∧ exec .build label = .next t ∧ t.err = true) ∧
    ∃ t, label.err = false ∧ memWrite 0x10 1 label = .next t ∧ t.err = true :=
  ⟨⟨_, rfl, rfl, rfl, rfl, rfl⟩, ⟨_, rfl, rfl, rfl⟩⟩

/-- A pending word that raises, and one that does not. -/
theorem witness_ErrorPriority :
    (waiting 3 label).err = false ∧ (waiting 3 label).pending = some 3 ∧
    (nextOf (engineStep (waiting 3 label))).map (·.err) = some true ∧
    (nextOf (engineStep (waiting 3 packed))).map (·.err) = some false := by decide

theorem witness_ErrorStateLeftOnlyByClearOrReset :
    (∃ t, step (waiting 1 failed) = .next t ∧ (waiting 1 failed).err = true ∧ t.err = false) ∧
    ∃ t, step (hostAt .reset failed) = .next t ∧ (hostAt .reset failed).err = true ∧ t.err = false :=
  ⟨⟨_, rfl, rfl, rfl⟩, ⟨_, rfl, rfl, rfl⟩⟩

theorem witness_NestedErrorChangesOnlyDone :
    (({ failed with pixbuf := samplePixels } : State).err = true ∧ ({ failed with pixbuf := samplePixels } : State).busy = false ∧
      ({ failed with pixbuf := samplePixels } : State).pixbuf.length = ({ failed with pixbuf := samplePixels } : State).cfg.pixCap) ∧
    (waiting 1 failed).Inv ∧ (waiting 1 failed).err = true ∧ (waiting 1 failed).executes 1 :=
  ⟨by decide, failed_inv, by decide, by decide⟩

/-! ### Witnesses: the host's accesses -/

/-- The first and the last offset; and a size, an alignment and an offset that are not admitted. -/
theorem witness_AccessAdmission :
    (∃ off, 0 = small.cfg.peeBase + off ∧ off % 4 = 0 ∧ off ≤ 0xFC) ∧
    (∃ off, 0xFC = small.cfg.peeBase + off ∧ off % 4 = 0 ∧ off ≤ 0xFC) ∧
    (¬ ((1 : Nat) = 4 ∧ ∃ off, 0x04 = small.cfg.peeBase + off ∧ off % 4 = 0 ∧ off ≤ 0xFC)) ∧
    (¬ ((4 : Nat) = 4 ∧ ∃ off, 0x02 = small.cfg.peeBase + off ∧ off % 4 = 0 ∧ off ≤ 0xFC)) ∧
    (¬ ((4 : Nat) = 4 ∧ ∃ off, 0x100 = small.cfg.peeBase + off ∧ off % 4 = 0 ∧ off ≤ 0xFC)) ∧
    ({ small with prog := [.bus (.read 0x02 4)] } : State).prog = .bus (.read 0x02 4) :: [] ∧
    ({ small with prog := [.bus (.write 0xFC 4 1)] } : State).prog = .bus (.write 0xFC 4 1) :: [] := by
  refine ⟨⟨0, by decide⟩, ⟨0xFC, by decide⟩, fun hn => absurd hn.1 (by decide), ?_, ?_, rfl, rfl⟩ <;>
    (rintro ⟨_, off, h1, h2, h3⟩; simp only [small] at h1; omega)

theorem witness_ReadTable : small.Inv ∧ 0x34 ≤ 0x34 ∧ 0x2C ≠ 0x30 := ⟨small_inv, by decide, by decide⟩

theorem witness_WriteTable :
    (waiting 4 small).busy = true ∧ (1 : Word) ≠ 0 ∧ 0x30 ∈ [0x04, 0x14, 0x18, 0x20, 0x24, 0x28, 0x2C, 0x30] ∧
    (0x34 % 4 = 0 ∧ 0x34 ≤ 0x34 ∧ 0x34 ≤ 0xFC) ∧ (0xFC % 4 = 0 ∧ 0x34 ≤ 0xFC ∧ 0xFC ≤ 0xFC) ∧ 0x10 ∈ [0x00, 0x10] := by decide

/-- Busy; one pixel below the capacity; at it. -/
theorem witness_PixelPort :
    (waiting 4 small).busy = true ∧
    (({ small with pixbuf := samplePixels.tail } : State).busy = false ∧ samplePixels.tail.length + 1 = small.cfg.pixCap) ∧
    (label.busy = false ∧ label.pixbuf.length = label.cfg.pixCap ∧ label.err = false) ∧
    (({ label with err := true } : State).busy = false ∧
      ({ label with err := true } : State).pixbuf.length = ({ label with err := true } : State).cfg.pixCap ∧
      ({ label with err := true } : State).err = true) ∧
    (0xFFFFFFFE : Word).getLsbD 0 = (0 : Word).getLsbD 0 := by decide

theorem witness_CommandIssue :
    (4 : Word) ≠ 0 ∧ (waiting 4 small).busy = true ∧ (failed.busy = false ∧ failed.err = true ∧ (4 : Word) ≠ 1) ∧
    (small.busy = false ∧ small.err = false) := by decide

theorem witness_OutDataRead :
    small.outfifo = [] ∧ ({ small with outfifo := [[0x00, 0x12], [0x34]] } : State).outfifo = (0x00 :: [0x12]) :: [[0x34]] ∧
    ({ small with outfifo := [[0x34]] } : State).outfifo = (0x34 :: []) :: [] := by decide

theorem witness_FifoReadsBackInOrder : ∀ b ∈ ({ small with outfifo := [[0x00, 0x12], [0x34]] } : State).outfifo, b ≠ [] := by
  decide

/-! ### Witnesses: the engine and the whole machine -/

theorem witness_StepRunsTheDecodedInstruction :
    (waiting 4 small).executes 4 ∧ (writing 0x00 0 small).hostWrites 0x00 0 ∧
    (emitting (Wire.header 0) small).emits (encode (.wireHeader 0)) ∧
    (emitting [0x00, 0x07] small).emits (encode (.wireChunk 0 [0x07])) ∧
    (emitting [0x00, 0x12, 0x34] small).emits (encode (.wireChunkLast 0 [])) ∧ (4 : Word) ≠ 0 ∧
    (hostAt .reset heldState).nextAgent = .host ∧ (hostAt .reset heldState).prog = .reset :: [] := by decide

/-- A block that fills OUTFIFO exactly, one that is a byte too long, and an empty OUTFIFO. -/
theorem witness_EmissionStep :
    (emitting (List.replicate 503 0x07) small).pending = none ∧
    (List.replicate 503 (0x07 : Byte)).length + small.outLevel ≤ small.cfg.outCap ∧
    (emitting (List.replicate 9 0x07) nearlyFull).cfg.outCap < 9 + (emitting (List.replicate 9 0x07) nearlyFull).outLevel ∧
    (emitting (Wire.header 0) small).outfifo = [] := by decide

/-- One read of OUTDATA lifts a hold. -/
theorem witness_EmissionStep_lift : (hostAt .drain heldState).held = true ∧
    (nextOf (step (hostAt .drain heldState))).map (·.held) = some false := by decide

theorem emitting_inv : (emitting (Wire.header 0) small).Inv where
  cfg := by decide
  bounded := ⟨by decide, by decide, by decide, by decide, by decide, by decide, by decide, by decide, by decide⟩
  pendingAlone := by decide
  pendingWord := by decide
  pendingInError := by decide
  quietInError := by decide
  readPlace := by decide

theorem witness_EmissionStep_empty :
    (emitting (Wire.header 0) small).Inv ∧ (emitting (Wire.header 0) small).pending = none ∧
    (emitting (Wire.header 0) small).emit ≠ [] ∧ (emitting (Wire.header 0) small).outfifo = [] :=
  ⟨emitting_inv, by decide⟩

/-- An accepted command, without and with an error; and an idle engine. -/
theorem witness_IdleUntilACommandIsAccepted :
    (small.pending = none ∧ small.emit = []) ∧
    (∃ t, step (writing 0x00 4 small) = .next t ∧ (writing 0x00 4 small).busy = false ∧ t.busy = true) ∧
    ∃ t, step (writing 0x00 1 failed) = .next t ∧ (writing 0x00 1 failed).busy = false ∧ t.busy = true :=
  ⟨⟨rfl, rfl⟩, ⟨_, rfl, rfl, rfl⟩, ⟨_, rfl, rfl, rfl⟩⟩

theorem witness_HoldLastsUntilTheHostReads :
    heldState.held = true ∧ ∃ t, step (writing 0x08 1 heldState) = .next t ∧ (writing 0x08 1 heldState).held = true ∧
      ¬ (writing 0x08 1 heldState).hostPops ∧ ¬ (writing 0x08 1 heldState).resets :=
  ⟨by decide, _, rfl, by decide, by decide, by decide⟩

theorem witness_RunningCommandSeesFrozenInputs :
    ∃ t, (writing 0x08 1 (waiting 4 small)).busy = true ∧ (writing 0x08 1 (waiting 4 small)).nextAgent = .host ∧
      step (writing 0x08 1 (waiting 4 small)) = .next t ∧ ¬ (writing 0x08 1 (waiting 4 small)).resets ∧
      ¬ (writing 0x08 1 (waiting 4 small)).hostPops :=
  ⟨_, rfl, rfl, rfl, by decide, by decide⟩

/-- A step that is none of the writers, for every clause at once. -/
theorem witness_WhoWritesWhat :
    ∃ t, step (emitting (Wire.header 0) small) = .next t ∧ ¬ (emitting (Wire.header 0) small).clears ∧
      (∀ w, ¬ (emitting (Wire.header 0) small).executes w) ∧ ∀ off v, ¬ (emitting (Wire.header 0) small).hostWrites off v :=
  ⟨_, rfl, by decide, fun _ hw => (by cases hw.2), fun _ _ hw => (by cases hw.1)⟩

/-- A write that is none of the writers of OUTFIFO, EMIT and PENDING, for those clauses at once. -/
theorem witness_WhoWritesWhat_queues :
    ∃ t, step (writing 0x08 1 heldState) = .next t ∧ ¬ (writing 0x08 1 heldState).clears ∧
      (∀ b, ¬ (writing 0x08 1 heldState).emits b) ∧ (∀ w, ¬ (writing 0x08 1 heldState).executes w) ∧
      ¬ (writing 0x08 1 heldState).hostPops ∧ ∀ w, ¬ (writing 0x08 1 heldState).hostWrites 0x00 w :=
  ⟨_, rfl, by decide, fun _ hb => (by cases hb.1), fun _ hw => (by cases hw.1), by decide, fun _ hw => (by cases hw.2)⟩

theorem witness_OnlyUnadmittedAccessesAreRefused :
    (writing 0xFC 1 small).safeProg = true ∧
    step (hostAt (.bus (.read 0x02 4)) small) = .refused (.accessNotAdmitted 0x02 4) := ⟨by decide, rfl⟩

theorem witness_InvariantHoldsAtStart : State.reset.Start := ⟨by decide, by decide, by decide, by decide⟩

theorem witness_StepKeepsTheInvariant : (waiting 6 label).Inv ∧ ∃ t, step (waiting 6 label) = .next t :=
  ⟨label_waiting_inv, _, rfl⟩

theorem witness_ReachableStatesAreBounded : Reachable State.reset := .start witness_InvariantHoldsAtStart

/-- A step that moves a block, and an execute step that adds two. -/
theorem witness_OutputStreamConserved :
    (∃ t, step (emitting (Wire.header 0) small) = .next t ∧ (∀ w, ¬ (emitting (Wire.header 0) small).executes w) ∧
      ¬ (emitting (Wire.header 0) small).resets ∧ ¬ (emitting (Wire.header 0) small).hostPopsUnlogged) ∧
    ∃ t, (waiting 6 label).Inv ∧ step (waiting 6 label) = .next t ∧ (waiting 6 label).executes 6 ∧ (6 : Word) ≠ 1 :=
  ⟨⟨_, rfl, fun _ hw => (by cases hw.2), by decide, by decide⟩, ⟨_, label_waiting_inv, rfl, by decide, by decide⟩⟩

/-- A logged read and one that is not, of a block's first byte; a step that clears and one that does neither. -/
theorem witness_LoggedBlocksRunFromFirstToLast :
    (∃ t, (hostAt .drain nearlyFull).outfifo = (0x07 :: List.replicate 494 0x07) :: [] ∧ (hostAt .drain nearlyFull).hostPops ∧
      step (hostAt .drain nearlyFull) = .next t ∧ ¬ (hostAt .drain nearlyFull).hostPopsUnlogged) ∧
    (hostAt (.bus (.read 0x30 4)) nearlyFull).hostPopsUnlogged ∧
    (∃ t, step (waiting 1 small) = .next t ∧ (waiting 1 small).clears) ∧
    (∃ t, step small = .next t ∧ ¬ small.clears ∧ ¬ small.hostPops) ∧
    (([0x12, 0x34] : Block) ≠ [] ∧ ∀ b ∈ ([[0x00, 0x12], [0x34]] : List Block), b ≠ []) :=
  ⟨⟨_, rfl, by decide, rfl, by decide⟩, by decide, ⟨_, rfl, by decide⟩, ⟨_, rfl, by decide, by decide⟩, by decide⟩

theorem drain_inv : ({ emitting (Wire.header 0) small with prog := [.runPop] } : State).Inv where
  cfg := by decide
  bounded := ⟨by decide, by decide, by decide, by decide, by decide, by decide, by decide, by decide, by decide⟩
  pendingAlone := by decide
  pendingWord := by decide
  pendingInError := by decide
  quietInError := by decide
  readPlace := by decide

theorem witness_DrainLoopEndsWithEverythingLogged :
    ({ emitting (Wire.header 0) small with prog := [.runPop] } : State).Inv ∧ (emitting (Wire.header 0) small).pending = none ∧
    (emitting (Wire.header 0) small).sched = [] ∧ (emitting (Wire.header 0) small).log = [] ∧
    (emitting (Wire.header 0) small).readPlace = .first := ⟨drain_inv, by decide⟩

end Sys2Proof.Tests
end

/-! ## Proofs of the state family: the invariant of R43, DONE, OVR, reset and BUSY -/

section
/-! The invariant, operation by operation: each named update of State keeps State.Inv, so every step does. -/

namespace Sys2Proof.Machine

/-! ### What the invariant does not read -/

/-- The invariant reads nothing of OVR, the operand registers, CSUM, the host and the interleaving. -/
theorem State.Inv.of_unread {s t : State} (h : s.Inv)
    (ht : t = { s with
      ovr := t.ovr, width := t.width, height := t.height, bodylen := t.bodylen, csum := t.csum, sched := t.sched,
      prog := t.prog, results := t.results, log := t.log }) : t.Inv := by
  obtain ⟨hcfg, ⟨b1, b2, b3, b4, b5, b6, b7, b8, b9⟩, hpe, hpw, hpx, hqe, hrp⟩ := h
  rw [ht]
  exact ⟨hcfg, ⟨b1, b2, b3, b4, b5, b6, b7, b8, b9⟩, hpe, hpw, hpx, hqe, hrp⟩

/-! ### Reset and the error action -/

/-- The reset table satisfies the invariant, whatever was before (R42). -/
theorem State.clear_inv {s : State} (hcfg : s.cfg.Valid) : s.clear.Inv where
  cfg := hcfg
  bounded :=
    { pixcnt := Nat.zero_le _
      outlevel := Nat.zero_le _
      chunkcnt := Nat.zero_le _
      bmplen := Nat.zero_le _
      bodylen := .inl rfl
      done := by simp
      noError := by simp
      outBlocks := by simp
      emitBlocks := by simp }
  pendingAlone := by simp
  pendingWord := by simp
  pendingInError := by simp
  quietInError := by simp
  readPlace := by simp

theorem State.Start.inv {s : State} (h : s.Start) : s.Inv := by
  obtain ⟨hcfg, hclear, _, _⟩ := h
  rw [← hclear]
  exact State.clear_inv hcfg

theorem State.Inv.raise {s : State} (h : s.Inv) (e : ErrorKind) (op : Byte) : (s.raise e op).Inv where
  cfg := h.cfg
  bounded := { h.bounded with done := by simp, noError := by simp, emitBlocks := by simp }
  pendingAlone := by simp
  pendingWord := by simp
  pendingInError := by simp
  quietInError := by simp
  readPlace := h.readPlace

/-! ### The host's writes -/

theorem State.Inv.accept {s : State} {w : Word} (h : s.Inv) (hb : s.busy = false) (hw : w ≠ 0)
    (he : s.err = true → w = 1) : (s.accept w).Inv where
  cfg := h.cfg
  bounded := { h.bounded with done := by simp }
  pendingAlone := fun _ => ((busy_false_iff s).1 hb).2
  pendingWord := by simpa using hw
  pendingInError := fun herr => .inr (congrArg some (he herr))
  quietInError := h.quietInError
  readPlace := h.readPlace

theorem State.Inv.appendPixel {s : State} (h : s.Inv) (hl : s.pixbuf.length < s.cfg.pixCap) (p : Bool) :
    (s.appendPixel p).Inv :=
  { h with bounded := { h.bounded with pixcnt := by simpa using hl } }

theorem State.Inv.memWrite {s t : State} {off : Nat} {v : Word} (h : s.Inv) (hm : memWrite off v s = .next t) : t.Inv := by
  rcases memWrite_next_cases hm with rfl | ⟨_, rfl, _⟩ | ⟨_, _, rfl⟩ | ⟨_, _, rfl⟩ | ⟨_, _, rfl⟩ | ⟨_, _, hl, rfl⟩ |
    ⟨_, _, _, rfl⟩ | ⟨hb, _, hv, he, rfl⟩
  · exact h
  · exact h.of_unread rfl
  · exact h.of_unread rfl
  · exact h.of_unread rfl
  · exact h.of_unread rfl
  · exact h.appendPixel hl _
  · exact h.raise _ _
  · exact h.accept hb hv he

/-! ### Reads of OUTDATA -/

/-- A byte leaves OUTFIFO; the block it begins or goes on with is still there unless the byte was its last (R95). -/
theorem State.Inv.pop {s : State} {b : Byte} {last : Bool} {rest : List Block} (h : s.Inv) (logged : Bool)
    (hp : popFifo s.outfifo = some (b, last, rest)) :
    State.Inv { s with outfifo := rest, readPlace := s.readPlace.after logged last } := by
  obtain ⟨_, hsum, hblocks, hrest⟩ := popFifo_some hp
  have hlevel : (rest.map List.length).sum ≤ s.cfg.outCap := by
    have := h.bounded.outlevel
    unfold State.outLevel at this
    omega
  exact { h with
    bounded := { h.bounded with outlevel := hlevel, outBlocks := hblocks h.bounded.outBlocks }
    readPlace := fun hne => hrest (by simpa [BlockPlace.after_eq_first] using hne) }

theorem State.Inv.popOut {s : State} (h : s.Inv) : s.popOut.Inv := by
  rcases popOut_cases s with ⟨_, hs, _⟩ | ⟨b, last, rest, hp, hs, _⟩
  · rwa [hs]
  · rw [hs]; exact h.pop false hp

theorem State.Inv.popAndLog {s : State} (h : s.Inv) : s.popAndLog.Inv := by
  rcases popAndLog_cases s with ⟨_, hs⟩ | ⟨b, last, rest, hp, hs⟩
  · rwa [hs]
  · rw [hs]; exact (h.pop true hp).of_unread rfl

theorem State.Inv.afterRead {s : State} (h : s.Inv) (off : Nat) : (s.afterRead off).Inv := by
  rcases afterRead_cases off s with ⟨_, hs⟩ | ⟨_, hs⟩ <;> rw [hs]
  · exact h.popOut
  · exact h

/-! ### The engine's steps -/

/-- The block that enters OUTFIFO fits; DONE comes with the last one only (R226). -/
theorem State.Inv.emitHead {s : State} {b : Block} {rest : List Block} (h : s.Inv) (hp : s.pending = none)
    (he : s.emit = b :: rest) (hf : s.fits b = true) : (s.emitHead b rest).Inv := by
  have hdone : s.done = false := by
    by_contra hd
    have := ((busy_false_iff s).1 (h.bounded.done (by simpa using hd))).2
    simp [he] at this
  have herr : s.err ≠ true := fun hx => by simpa [he] using h.quietInError hx
  have hlevel : s.outLevel + b.length ≤ s.cfg.outCap := of_decide_eq_true hf
  have hemit : ∀ x ∈ b :: rest, blockOk x := he ▸ h.bounded.emitBlocks
  obtain ⟨hb, hrest⟩ := List.forall_mem_cons.1 hemit
  exact {
    cfg := h.cfg
    bounded := { h.bounded with
      outlevel := by simpa [State.outLevel] using hlevel
      done := fun hd => by simp_all [busy_false_iff]
      outBlocks := List.forall_mem_append.2 ⟨h.bounded.outBlocks, List.forall_mem_singleton.2 hb⟩
      emitBlocks := hrest }
    pendingAlone := fun hne => absurd hp hne
    pendingWord := h.pendingWord
    pendingInError := h.pendingInError
    quietInError := fun hx => absurd hx herr
    readPlace := by simp }

/-- The execute step empties PENDING before the command runs (R221). -/
theorem State.Inv.takePending {s : State} (h : s.Inv) : State.Inv { s with pending := none } where
  cfg := h.cfg
  bounded := { h.bounded with
    done := fun hd => (busy_false_iff _).2 ⟨rfl, ((busy_false_iff s).1 (h.bounded.done hd)).2⟩ }
  pendingAlone := by simp
  pendingWord := by simp
  pendingInError := by simp
  quietInError := h.quietInError
  readPlace := h.readPlace

theorem State.Inv.complete {s : State} (h : s.Inv) (hp : s.pending = none) : s.complete.Inv := by
  refine { h with bounded := { h.bounded with done := fun hd => (busy_false_iff _).2 ⟨hp, ?_⟩ } }
  rcases Bool.or_eq_true_iff.1 hd with hd | hd
  · exact ((busy_false_iff s).1 (h.bounded.done hd)).2
  · exact List.isEmpty_iff.1 hd

theorem State.Inv.setEmit {s : State} {bs : List Block} (h : s.Inv) (hp : s.pending = none) (hd : s.done = false)
    (he : s.err = false) (hbs : ∀ b ∈ bs, blockOk b) : (s.setEmit bs).Inv where
  cfg := h.cfg
  bounded := { h.bounded with done := by simp [hd], emitBlocks := hbs }
  pendingAlone := fun hne => absurd hp hne
  pendingWord := h.pendingWord
  pendingInError := h.pendingInError
  quietInError := by simp [he]
  readPlace := h.readPlace

theorem State.Inv.setBmpbuf {s : State} {bm : List Byte} (h : s.Inv) (hl : bm.length ≤ Wire.ceilDiv s.cfg.pixCap 8) :
    (s.setBmpbuf bm).Inv :=
  { h with bounded := { h.bounded with bmplen := hl } }

theorem State.Inv.setBody {s : State} {B : List Byte} (h : s.Inv)
    (hl : 24 ≤ B.length ∧ B.length ≤ 24 + Wire.ceilDiv s.cfg.pixCap 8) : (s.setBody B).Inv :=
  State.Inv.of_unread (s := { s with bodybuf := B }) { h with bounded := { h.bounded with bodylen := .inr hl } } rfl

theorem State.Inv.setCsum {s : State} (h : s.Inv) (c : Byte) : (s.setCsum c).Inv := h.of_unread rfl

theorem State.Inv.setChunkcnt {s : State} {L : Nat} (h : s.Inv) (hf : framable L = true) :
    (s.setChunkcnt (Wire.nchunks L)).Inv := by
  refine { h with bounded := { h.bounded with chunkcnt := ?_ } }
  have := (framable_iff L).1 hf
  show (BitVec.ofNat 9 (Wire.nchunks L)).toNat ≤ 256
  rw [BitVec.toNat_ofNat]
  omega

/-- The packed raster has a byte for every eight pixels, and PIXBUF is bounded (R131, R43). -/
theorem State.Inv.pack_length_le {s : State} (h : s.Inv) :
    (Wire.pack s.pixbuf).length ≤ Wire.ceilDiv s.cfg.pixCap 8 := by
  have := h.bounded.pixcnt
  rw [Wire.pack_length, Wire.ceilDiv]
  omega

/-- A body of a bitmap of at most n bytes has 24 to 24 + n bytes (R139). -/
theorem body_length_bounds (w ht : Word) {bm : List Byte} {n : Nat} (hl : bm.length ≤ n) :
    24 ≤ (Wire.body w ht bm).length ∧ (Wire.body w ht bm).length ≤ 24 + n := by
  rw [Wire.body_length]
  omega

theorem header_blockOk (L : Word) : blockOk (Wire.header L) := by simp [blockOk]

theorem chunks_blockOk (B : List Byte) : ∀ b ∈ Wire.chunks B, blockOk b := fun _ => Wire.chunk_length_bounds B

/-- The effects of JOB one after another: the serializer, the encoder, the checksum engine, the framer (R224). -/
theorem State.Inv.jobEffect {s : State} {bm B : List Byte} (h : s.Inv) (hp : s.pending = none) (hd : s.done = false)
    (he : s.err = false) (hbm : bm.length ≤ Wire.ceilDiv s.cfg.pixCap 8)
    (hB : 24 ≤ B.length ∧ B.length ≤ 24 + Wire.ceilDiv s.cfg.pixCap 8) (hf : framable B.length = true) :
    (jobEffect bm B s).Inv := by
  have hblocks : ∀ b ∈ Wire.header (BitVec.ofNat 32 B.length) :: Wire.chunks B, blockOk b :=
    List.forall_mem_cons.2 ⟨header_blockOk _, chunks_blockOk B⟩
  have hregs := (((h.setBmpbuf hbm).setBody hB).setCsum (Wire.checksum (BitVec.ofNat 32 B.length))).setChunkcnt hf
  exact hregs.setEmit hp hd he hblocks

/-- A command word run from a state with nothing pending, emitting or done keeps the invariant; in error only CLEAR runs. -/
theorem State.Inv.execCmd {s t : State} {w : Word} (h : s.Inv) (hb : s.busy = false) (hd : s.done = false)
    (he : s.err = true → w = 1) (hx : exec (decodeCmd w) s = .next t) : t.Inv := by
  have hp : s.pending = none := ((busy_false_iff s).1 hb).1
  have noErr : w ≠ 1 → s.err = false := fun hw => by simpa using mt he hw
  rcases execCmd_cases hx with ⟨_, rfl⟩ | ⟨_, rfl⟩ | ⟨_, rfl⟩ | ⟨_, _, _, rfl⟩ | ⟨rfl, rfl⟩ | ⟨rfl, hf, rfl⟩ |
    ⟨rfl, _, _, hf, rfl⟩ | ⟨e, rfl, _⟩
  · exact h
  · exact State.clear_inv h.cfg
  · exact (h.setBmpbuf h.pack_length_le).complete hp
  · exact (h.setBody (body_length_bounds _ _ h.bounded.bmplen)).complete hp
  · have hblocks : ∀ b ∈ [Wire.header s.bodylen], blockOk b := List.forall_mem_singleton.2 (header_blockOk _)
    exact ((h.setCsum (Wire.checksum s.bodylen)).setEmit hp hd (noErr (by decide)) hblocks).complete hp
  · exact ((h.setChunkcnt hf).setEmit hp hd (noErr (by decide)) (chunks_blockOk _)).complete hp
  · have hbody := body_length_bounds s.width s.height h.pack_length_le
    exact (h.jobEffect hp hd (noErr (by decide)) h.pack_length_le hbody hf).complete ((jobEffect_pending _ _ s).trans hp)
  · exact h.raise _ _

/-! ### The step -/

/-- While a command waits nothing is being emitted, DONE is 0, and in error the command is CLEAR. -/
theorem State.Inv.of_pending {s : State} {w : Word} (h : s.Inv) (hp : s.pending = some w) :
    s.emit = [] ∧ s.done = false ∧ (s.err = true → w = 1) := by
  refine ⟨h.pendingAlone (by simp [hp]), ?_, fun he => ?_⟩
  · by_contra hd
    have := ((busy_false_iff s).1 (h.bounded.done (by simpa using hd))).1
    simp [hp] at this
  · simpa [hp] using h.pendingInError he

/-- Every step keeps the invariant. -/
theorem State.Inv.step {s t : State} (h : s.Inv) (hs : step s = .next t) : t.Inv := by
  have hturn : s.spendTurn.Inv := h.of_unread rfl
  rcases step_next_cases hs with ⟨w, ⟨_, hp⟩, hx⟩ | ⟨b, rest, ⟨_, hp, _, hf⟩, he, rfl⟩ | ⟨rfl, _⟩ |
    ⟨off, _, _, _, _, _, rfl⟩ | ⟨off, v, rest, _, _, _, _, hm⟩ | ⟨_, _, next, _, _, _, rfl⟩ |
    ⟨_, _, next, _, _, _, rfl⟩ | ⟨next, _, rfl⟩
  · obtain ⟨hem, hd, he⟩ := h.of_pending hp
    exact hturn.takePending.execCmd ((busy_false_iff _).2 ⟨rfl, hem⟩) hd he hx
  · exact hturn.emitHead hp he hf
  · exact hturn
  · exact (hturn.afterRead off).of_unread rfl
  · exact State.Inv.memWrite (hturn.of_unread rfl) hm
  · exact hturn.of_unread rfl
  · exact hturn.popAndLog.of_unread rfl
  · exact (State.clear_inv hturn.cfg).of_unread rfl

theorem Reachable.inv {s : State} (h : Reachable s) : s.Inv := by
  induction h with
  | start h => exact h.inv
  | step _ hs ih => exact ih.step hs

end Sys2Proof.Machine

namespace Sys2Proof.Proofs

open Sys2Proof.Machine

/-- Settles O57: the invariant holds at every start and every step keeps it, and R43 is a part of it. -/
theorem reachableStatesAreBounded : Obligations.ReachableStatesAreBounded :=
  fun _ h => h.inv.bounded

end Sys2Proof.Proofs
end

section
/-! STATUS, step by step: what each kind of step does to DONE and OVR, and the words the statements on them share. -/

namespace Sys2Proof.Machine

/-! ### STATUS and the reset table -/

/-- BUSY is bit 0 of STATUS (R23). -/
theorem statusWord_getLsbD_zero (s : State) : s.statusWord.getLsbD 0 = s.busy := by
  cases h : s.busy <;> simp [State.statusWord, h]

/-- `clear` gives the whole table of R42. -/
theorem clear_atReset (s : State) : Claims.AtReset s.clear := by
  constructor
  case status => simp [State.readReg, State.statusWord, State.busy]
  case counts => exact ⟨rfl, rfl, rfl, rfl⟩
  all_goals rfl

theorem step_of_reset_turn {s : State} (h : s.nextAgent = .reset) : step s = .next s.spendTurn.clear := by
  unfold step
  rw [h]

/-! ### The kinds of step -/

/-- The next step is none of those that change the PEE beyond OUTFIFO: no engine step, no write of the window, no reset. -/
def State.passive (s : State) : Prop :=
  (∀ w, ¬ s.executes w) ∧ (∀ b, ¬ s.emits b) ∧ (∀ off v, ¬ s.hostWrites off v) ∧ ¬ s.resets

/-- A step is an execute step, an emission step, a write, the reset input, or passive, and a passive step changes only
OUTFIFO and what is the host's. -/
theorem step_kind_cases {s t : State} (h : step s = .next t) :
    (∃ w, s.executes w ∧ exec (decodeCmd w) { s.spendTurn with pending := none } = .next t) ∨
    (∃ b rest, s.emits b ∧ s.emit = b :: rest ∧ t = s.spendTurn.emitHead b rest) ∨
    (∃ off v rest, s.hostWrites off v ∧ memWrite off v (s.spendTurn.goOn rest) = .next t) ∨
    (∃ next, s.resets ∧ t = s.spendTurn.clear.goOn next) ∨
    (s.passive ∧ t = { s with
      outfifo := t.outfifo, readPlace := t.readPlace, sched := t.sched, prog := t.prog, results := t.results,
      log := t.log }) := by
  rcases step_state_cases h with hx | he | ⟨p, r, hx, he, hr, hw, _, rfl⟩ | ⟨p, r, l, q, hp, ht, _, _⟩ | hw | hr
  · exact .inl hx
  · exact .inr (.inl he)
  · exact .inr (.inr (.inr (.inr ⟨⟨hx, he, hw, hr⟩, rfl⟩)))
  · obtain ⟨hx, he, hr, hw⟩ := hostPops_excludes hp
    refine .inr (.inr (.inr (.inr ⟨⟨hx, he, hw, hr⟩, ?_⟩)))
    rw [ht, popOut_eq s]
  · exact .inr (.inr (.inl hw))
  · exact .inr (.inr (.inr (.inl hr)))

theorem step_of_emits {s : State} {b : Block} {rest : List Block} (h : s.emits b) (he : s.emit = b :: rest) :
    step s = .next (s.spendTurn.emitHead b rest) := by
  obtain ⟨hturn, hp, _, hf⟩ := h
  have hemission : s.spendTurn.emission = s.spendTurn.emitHead b rest := by
    rcases emission_cases s.spendTurn with ⟨c, rest', _, he', _, hs⟩ | ⟨_, hno⟩
    · obtain ⟨rfl, rfl⟩ := List.cons.inj (he.symm.trans he')
      exact hs
    · exact absurd (hf.symm.trans (hno b rest hp he)) (by decide)
  unfold step engineStep
  simp [hturn, hp, hemission]

/-! ### What a write does, exactly -/

theorem memWrite_accept {s : State} {w : Word} (hb : s.busy = false) (hw : w ≠ 0) (he : s.err = true → w = 1) :
    memWrite 0x00 w s = .next (s.accept w) := by
  have haccept : ¬ (s.err && w ≠ 1) = true := by simpa using he
  show issue w s = _
  rw [issue, if_neg hw, State.unlessBusy, hb]
  simp only [haccept]
  rfl

theorem memWrite_pixin_full {s : State} (v : Word) (hb : s.busy = false) (hl : s.cfg.pixCap ≤ s.pixbuf.length) :
    memWrite 0x10 v s = .next (s.raise .pixelOverflow 0xFF) := by
  show Host.Outcome.next (s.pixelIn v) = _
  simp [State.pixelIn, State.unlessBusy, hb, Nat.not_lt.2 hl]

/-- The writes a busy PEE answers by OVR (R67). -/
def ignoredWhenBusy (off : Nat) (v : Word) : Prop :=
  off = 0x08 ∨ off = 0x0C ∨ off = 0x10 ∨ off = 0x1C ∨ (off = 0x00 ∧ v ≠ 0)

theorem memWrite_busy {s : State} {off : Nat} {v : Word} (hb : s.busy = true) (ho : ignoredWhenBusy off v) :
    memWrite off v s = .next s.setOvr := by
  have hbusy (f : State → State) : s.unlessBusy f = s.setOvr := if_pos hb
  rcases ho with rfl | rfl | rfl | rfl | ⟨rfl, hv⟩
  case inr.inr.inr.inr =>
    show issue v s = _
    rw [issue, if_neg hv, hbusy]
  all_goals exact congrArg Host.Outcome.next (hbusy _)

/-! ### DONE -/

/-- An execute step sets DONE when the command emits nothing and raises nothing: PACK, and BUILD past its checks (R227). -/
theorem execCmd_done_iff {s t : State} {w : Word} (hd : s.done = false) (he : s.emit = [])
    (hx : exec (decodeCmd w) s = .next t) :
    t.done = true ↔
      w = 2 ∨ (w = 3 ∧ dimOK s.width s.height s.bmpbuf.length = true ∧ lenOK s.bmpbuf.length = true) := by
  rcases execCmd_cases hx with ⟨rfl, rfl⟩ | ⟨rfl, rfl⟩ | ⟨rfl, rfl⟩ | ⟨rfl, h1, h2, rfl⟩ | ⟨rfl, rfl⟩ | ⟨rfl, _, rfl⟩ |
    ⟨rfl, _, _, _, rfl⟩ | ⟨e, rfl, hcause⟩
  · simp [hd]
  · simp
  · simp [he]
  · simp [he, h1, h2]
  · simp [hd]
  · simp [hd, Wire.chunks_ne_nil]
  · simp [hd]
  · rcases hcause with ⟨rfl, ⟨h1, _⟩ | ⟨_, h2, _⟩⟩ | ⟨rfl, _⟩ | ⟨rfl, _⟩ | ⟨hw, _⟩
    · simp [h1]
    · simp [h2]
    · simp
    · simp
    · refine iff_of_false (by simp) ?_
      rintro (rfl | ⟨rfl, _⟩) <;> exact absurd hw (by decide)

/-- From DONE = 1 and an idle engine, a write clears DONE when it is accepted as a command or overflows PIXBUF (R45). -/
theorem memWrite_done_false_iff {s t : State} {off : Nat} {v : Word} (hb : s.busy = false) (hd : s.done = true)
    (hm : memWrite off v s = .next t) :
    t.done = false ↔
      (off = 0x00 ∧ v ≠ 0 ∧ (s.err = true → v = 1)) ∨ (off = 0x10 ∧ s.cfg.pixCap ≤ s.pixbuf.length) := by
  constructor
  · intro ht
    rcases memWrite_next_cases hm with rfl | ⟨_, rfl, _⟩ | ⟨_, _, rfl⟩ | ⟨_, _, rfl⟩ | ⟨_, _, rfl⟩ | ⟨_, _, _, rfl⟩ |
      ⟨_, ho, hl, _⟩ | ⟨_, ho, hv, he, _⟩
    case inr.inr.inr.inr.inr.inr.inl => exact .inr ⟨ho, hl⟩
    case inr.inr.inr.inr.inr.inr.inr => exact .inl ⟨ho, hv, he⟩
    all_goals simp [hd] at ht
  · rintro (⟨rfl, hv, he⟩ | ⟨rfl, hl⟩)
    · rw [memWrite_accept hb hv he] at hm
      cases hm
      rfl
    · rw [memWrite_pixin_full v hb hl] at hm
      cases hm
      rfl

/-- No write sets DONE. -/
theorem memWrite_done_of_done {s t : State} {off : Nat} {v : Word} (hm : memWrite off v s = .next t) :
    t.done = true → s.done = true := by
  rcases memWrite_next_cases hm with rfl | ⟨_, rfl, _⟩ | ⟨_, _, rfl⟩ | ⟨_, _, rfl⟩ | ⟨_, _, rfl⟩ | ⟨_, _, _, rfl⟩ |
    ⟨_, _, _, rfl⟩ | ⟨_, _, _, _, rfl⟩ <;> simp

/-- The next step completes a command (R227). -/
def State.completes (s : State) : Prop :=
  s.executes 2 ∨
  (s.executes 3 ∧ dimOK s.width s.height s.bmpbuf.length = true ∧ lenOK s.bmpbuf.length = true) ∨
  ∃ b, s.emits b ∧ s.emit = [b]

/-- A command completes by an engine step only. -/
theorem not_completes {s : State} (hx : ∀ w, ¬ s.executes w) (he : ∀ b, ¬ s.emits b) : ¬ s.completes := by
  rintro (h | ⟨h, _⟩ | ⟨b, h, _⟩)
  · exact hx 2 h
  · exact hx 3 h
  · exact he b h

theorem step_done_iff_completes {s t : State} (h : s.Inv) (hs : step s = .next t) (hd : s.done = false) :
    t.done = true ↔ s.completes := by
  rcases step_kind_cases hs with ⟨w, hw, hx⟩ | ⟨b, rest, hb, he, rfl⟩ | ⟨off, v, rest, hw, hm⟩ | ⟨next, hr, rfl⟩ |
    ⟨⟨hx, he, _⟩, ht⟩
  · have hemit : s.emit = [] := (h.of_pending hw.2).1
    refine (execCmd_done_iff (s := { s.spendTurn with pending := none }) hd hemit hx).trans ⟨?_, ?_⟩
    · rintro (rfl | ⟨rfl, hchecks⟩)
      · exact .inl hw
      · exact .inr (.inl ⟨hw, hchecks⟩)
    · rintro (h2 | ⟨h3, hchecks⟩ | ⟨b, hb, _⟩)
      · exact .inl (executes_unique hw h2)
      · exact .inr ⟨executes_unique hw h3, hchecks⟩
      · exact absurd hb (executes_not_emits hw b)
  · have hlast : (s.spendTurn.emitHead b rest).done = true ↔ rest = [] := by simp [hd]
    rw [hlast]
    constructor
    · rintro rfl
      exact .inr (.inr ⟨b, hb, he⟩)
    · rintro (h2 | ⟨h3, _⟩ | ⟨c, _, hc⟩)
      · exact absurd h2 (emits_not_executes hb 2)
      · exact absurd h3 (emits_not_executes hb 3)
      · exact (List.cons.inj (he.symm.trans hc)).2
  · refine iff_of_false (fun ht => ?_) (not_completes (hostDoes_not_executes hw) (hostDoes_not_emits hw))
    have : s.done = true := memWrite_done_of_done (s := s.spendTurn.goOn rest) hm ht
    simp [hd] at this
  · obtain ⟨hx, he, _⟩ := resets_excludes hr
    exact iff_of_false (by simp) (not_completes hx he)
  · exact iff_of_false (by rw [ht]; simp [hd]) (not_completes hx he)

/-- The next step takes DONE back to 0: an accepted command, a pixel too many, CLEAR or reset (R45). -/
def State.dropsDone (s : State) : Prop :=
  (∃ w, s.hostWrites 0x00 w ∧ w ≠ 0 ∧ (s.err = true → w = 1)) ∨
  (∃ v, s.hostWrites 0x10 v ∧ s.pixbuf.length = s.cfg.pixCap) ∨ s.clears

theorem step_not_done_iff_dropsDone {s t : State} (h : s.Inv) (hs : step s = .next t) (hd : s.done = true) :
    t.done = false ↔ s.dropsDone := by
  have hbusy : s.busy = false := h.bounded.done hd
  obtain ⟨hp, hem⟩ := (busy_false_iff s).1 hbusy
  rcases step_kind_cases hs with ⟨w, hw, _⟩ | ⟨b, rest, _, he, _⟩ | ⟨off, v, rest, hw, hm⟩ | ⟨next, hr, rfl⟩ |
    ⟨⟨hx, _, hw, hr⟩, ht⟩
  · simp [hw.2] at hp
  · simp [he] at hem
  · have hcap : s.cfg.pixCap ≤ s.pixbuf.length ↔ s.pixbuf.length = s.cfg.pixCap :=
      ⟨fun hl => Nat.le_antisymm h.bounded.pixcnt hl, fun hl => hl.ge⟩
    rw [memWrite_done_false_iff (s := s.spendTurn.goOn rest) hbusy hd hm]
    constructor
    · rintro (⟨rfl, hv, he⟩ | ⟨rfl, hl⟩)
      · exact .inl ⟨v, hw, hv, he⟩
      · exact .inr (.inl ⟨v, hw, hcap.1 hl⟩)
    · rintro (⟨w, hw', hv, he⟩ | ⟨u, hw', hl⟩ | hx | hr)
      · obtain ⟨rfl, rfl⟩ := hostWrites_unique hw hw'
        exact .inl ⟨rfl, hv, he⟩
      · exact .inr ⟨(hostWrites_unique hw hw').1, hcap.2 hl⟩
      · exact absurd hx (hostDoes_not_executes hw 1)
      · exact absurd hr (hostWrites_not_resets hw)
  · exact iff_of_true rfl (.inr (.inr (.inr hr)))
  · refine iff_of_false (by rw [ht]; simp [hd]) ?_
    rintro (⟨w, hw', _⟩ | ⟨v, hw', _⟩ | hx' | hr')
    · exact hw _ _ hw'
    · exact hw _ _ hw'
    · exact hx 1 hx'
    · exact hr hr'

/-! ### OVR -/

/-- Of the commands, only CLEAR changes OVR. -/
theorem execCmd_ovr {s t : State} {w : Word} (hx : exec (decodeCmd w) s = .next t) :
    t.ovr = true ↔ s.ovr = true ∧ w ≠ 1 := by
  rcases execCmd_cases hx with ⟨rfl, rfl⟩ | ⟨rfl, rfl⟩ | ⟨rfl, rfl⟩ | ⟨rfl, _, _, rfl⟩ | ⟨rfl, rfl⟩ | ⟨rfl, _, rfl⟩ |
    ⟨rfl, _, _, _, rfl⟩ | ⟨e, rfl, hcause⟩
  case inr.inr.inr.inr.inr.inr.inr =>
    have hw : w ≠ 1 := by
      rintro rfl
      revert hcause
      simp [opcodeOf, rsvdOf]
    exact (and_iff_left hw).symm
  all_goals simp

/-- A write sets OVR when it is ignored because BUSY = 1, and no write clears it (R47). -/
theorem memWrite_ovr_iff {s t : State} {off : Nat} {v : Word} (hm : memWrite off v s = .next t) :
    t.ovr = true ↔ s.ovr = true ∨ (s.busy = true ∧ ignoredWhenBusy off v) := by
  constructor
  · intro ht
    rcases memWrite_next_cases hm with rfl | ⟨hb, _, ho⟩ | ⟨_, _, rfl⟩ | ⟨_, _, rfl⟩ | ⟨_, _, rfl⟩ | ⟨_, _, _, rfl⟩ |
      ⟨_, _, _, rfl⟩ | ⟨_, _, _, _, rfl⟩
    case inr.inl => exact .inr ⟨hb, ho⟩
    all_goals exact .inl ht
  · refine or_imp.2 ⟨?_, ?_⟩
    · rcases memWrite_next_cases hm with rfl | ⟨_, rfl, _⟩ | ⟨_, _, rfl⟩ | ⟨_, _, rfl⟩ | ⟨_, _, rfl⟩ | ⟨_, _, _, rfl⟩ |
        ⟨_, _, _, rfl⟩ | ⟨_, _, _, _, rfl⟩ <;> simp
    · rintro ⟨hb, ho⟩
      rw [memWrite_busy hb ho] at hm
      cases hm
      rfl

/-- The next step is a host write the engine ignores because BUSY = 1 (R47). -/
def State.writeIgnored (s : State) : Prop :=
  s.busy = true ∧
    ((∃ v, s.hostWrites 0x08 v) ∨ (∃ v, s.hostWrites 0x0C v) ∨ (∃ v, s.hostWrites 0x10 v) ∨
     (∃ v, s.hostWrites 0x1C v) ∨ (∃ w, w ≠ 0 ∧ s.hostWrites 0x00 w))

theorem writeIgnored_hostWrites {s : State} (h : s.writeIgnored) :
    ∃ off v, s.hostWrites off v ∧ ignoredWhenBusy off v := by
  rcases h with ⟨_, ⟨v, h⟩ | ⟨v, h⟩ | ⟨v, h⟩ | ⟨v, h⟩ | ⟨w, hw, h⟩⟩
  · exact ⟨_, v, h, .inl rfl⟩
  · exact ⟨_, v, h, .inr (.inl rfl)⟩
  · exact ⟨_, v, h, .inr (.inr (.inl rfl))⟩
  · exact ⟨_, v, h, .inr (.inr (.inr (.inl rfl)))⟩
  · exact ⟨_, w, h, .inr (.inr (.inr (.inr ⟨rfl, hw⟩)))⟩

theorem writeIgnored_iff {s : State} {off : Nat} {v : Word} (hw : s.hostWrites off v) :
    s.writeIgnored ↔ s.busy = true ∧ ignoredWhenBusy off v := by
  constructor
  · intro h
    obtain ⟨off', v', hw', ho⟩ := writeIgnored_hostWrites h
    obtain ⟨rfl, rfl⟩ := hostWrites_unique hw hw'
    exact ⟨h.1, ho⟩
  · rintro ⟨hb, rfl | rfl | rfl | rfl | ⟨rfl, hv⟩⟩
    · exact ⟨hb, .inl ⟨v, hw⟩⟩
    · exact ⟨hb, .inr (.inl ⟨v, hw⟩)⟩
    · exact ⟨hb, .inr (.inr (.inl ⟨v, hw⟩))⟩
    · exact ⟨hb, .inr (.inr (.inr (.inl ⟨v, hw⟩)))⟩
    · exact ⟨hb, .inr (.inr (.inr (.inr ⟨v, hv, hw⟩)))⟩

theorem not_writeIgnored {s : State} (h : ∀ off v, ¬ s.hostWrites off v) : ¬ s.writeIgnored := fun hi =>
  have ⟨off, v, hw, _⟩ := writeIgnored_hostWrites hi
  h off v hw

theorem writeIgnored_not_clears {s : State} (h : s.writeIgnored) : ¬ s.clears := by
  obtain ⟨off, v, hw, _⟩ := writeIgnored_hostWrites h
  rintro (hx | hr)
  · exact hostDoes_not_executes hw 1 hx
  · exact hostWrites_not_resets hw hr

/-- OVR after a step: kept unless the step clears, and set by an ignored write (R47). -/
theorem step_ovr_iff {s t : State} (hs : step s = .next t) :
    t.ovr = true ↔ (s.ovr = true ∧ ¬ s.clears) ∨ s.writeIgnored := by
  rcases step_kind_cases hs with ⟨w, hw, hx⟩ | ⟨b, rest, hb, he, rfl⟩ | ⟨off, v, rest, hw, hm⟩ | ⟨next, hr, rfl⟩ |
    ⟨⟨hx, _, hw, hr⟩, ht⟩
  · have hclears : s.clears ↔ w = 1 :=
      ⟨fun hc => hc.elim (executes_unique hw) fun hr => absurd hr (executes_not_resets hw), fun h => .inl (h ▸ hw)⟩
    have hno : ¬ s.writeIgnored := not_writeIgnored fun _ _ => executes_not_hostDoes hw _
    rw [execCmd_ovr hx, hclears, or_iff_left hno]
    rfl
  · have hclears : ¬ s.clears := fun hc => hc.elim (emits_not_executes hb 1) (emits_not_resets hb)
    have hno : ¬ s.writeIgnored := not_writeIgnored fun _ _ => emits_not_hostDoes hb _
    simp [hclears, hno]
  · have hclears : ¬ s.clears := fun hc => hc.elim (hostDoes_not_executes hw 1) (hostWrites_not_resets hw)
    rw [memWrite_ovr_iff hm, writeIgnored_iff hw, and_iff_left hclears]
    rfl
  · have hno : ¬ s.writeIgnored := fun hi => writeIgnored_not_clears hi (.inr hr)
    have hclears : s.clears := .inr hr
    simp [hclears, hno]
  · have hclears : ¬ s.clears := fun hc => hc.elim (hx 1) hr
    have hno : ¬ s.writeIgnored := not_writeIgnored hw
    rw [ht]
    simp [hclears, hno]

end Sys2Proof.Machine

namespace Sys2Proof.Proofs

open Sys2Proof.Machine

/-- Settles O19, kind of step by kind of step. -/
theorem doneRules : Obligations.DoneRules := by
  refine ⟨fun s w hb hw he => ⟨_, memWrite_accept hb hw he, rfl, rfl⟩, State.raise_done,
    fun s t h hs hd => ⟨?_, fun ht => ?_⟩, fun s t h hs hd => step_not_done_iff_dropsDone h hs hd,
    fun s b hb he => ?_, fun s => ⟨_, exec_clear s, rfl⟩, exec_nop⟩
  · exact step_done_iff_completes h hs hd
  · exact ((busy_false_iff t).1 ((h.step hs).bounded.done ht)).2
  · rw [step_of_emits hb he]
    simp [State.emitHead, State.spendTurn]

/-- Settles O20, from what a step makes of OVR. -/
theorem ovrRules : Obligations.OvrRules := by
  refine ⟨fun s t hs ho => ?_, fun s t hs ho => ?_, State.setOvr_err, fun s w _ hb he hw => ?_⟩
  · exact (step_ovr_iff hs).trans (or_iff_right (by simp [ho]))
  · have hexcl : s.writeIgnored → ¬ s.clears := writeIgnored_not_clears
    rw [← Bool.not_eq_true, step_ovr_iff hs]
    simp only [ho, true_and]
    tauto
  · exact memWrite_accept hb hw (by simp [he])

/-- Settles O15: State.reset is the reset table, and CLEAR and the reset turn are both `clear`. -/
theorem resetAndClearGiveTheResetTable : Obligations.ResetAndClearGiveTheResetTable :=
  ⟨clear_atReset State.reset, fun s => ⟨s.clear, exec_clear s, clear_atReset s, step_of_reset_turn⟩⟩

/-- Settles O17: a STATUS read returns the STATUS word, whose bit 0 is BUSY. -/
theorem busyIffPendingOrEmitting : Obligations.BusyIffPendingOrEmitting := fun s =>
  (iff_of_eq (congrArg (· = true) (statusWord_getLsbD_zero s))).trans (busy_iff s)

end Sys2Proof.Proofs
end

section
/-! The register window: which offsets hold a register, what a read of each returns and what a write to each does, and
which accesses are admitted (spec/20_memory.md R61..R67). -/

namespace Sys2Proof.Machine

/-! ### The reserved offsets and the read-only registers -/

/-- No register stands above OUTDATA (R93). -/
theorem regAt_reserved {off : Nat} (h : 0x34 ≤ off) : regAt off = none := by
  unfold regAt
  split
  case h_14 => rfl
  all_goals exact absurd h (by decide)

theorem readValue_reserved {off : Nat} (h : 0x34 ≤ off) (s : State) : s.readValue off = 0 := by
  rw [State.readValue, regAt_reserved h]

theorem memWrite_reserved {off : Nat} (h : 0x34 ≤ off) (v : Word) (s : State) : memWrite off v s = .next s := by
  rw [memWrite, regAt_reserved h]

theorem memWrite_readOnly {off : Nat} (h : off ∈ [0x04, 0x14, 0x18, 0x20, 0x24, 0x28, 0x2C, 0x30]) (v : Word)
    (s : State) : memWrite off v s = .next s := by
  simp only [List.mem_cons, List.not_mem_nil, or_false] at h
  rcases h with rfl | rfl | rfl | rfl | rfl | rfl | rfl | rfl <;> rfl

/-- Only a read of OUTDATA changes state (R62). -/
theorem afterRead_of_ne_outdata {off : Nat} (h : off ≠ 0x30) (s : State) : s.afterRead off = s :=
  (afterRead_cases off s).elim (fun ⟨ho, _⟩ => absurd ho h) And.right

/-! ### The STATUS word as a number -/

/-- A word put together from two fields that do not overlap. -/
theorem toNat_shiftLeft_or {hi lo : Word} {a b : Nat} (k : Nat) (ha : hi.toNat = a) (hb : lo.toNat = b)
    (hfit : a * 2 ^ k < 2 ^ 32) (hlow : b < 2 ^ k) : (hi <<< k ||| lo).toNat = a * 2 ^ k + b := by
  subst ha hb
  rw [BitVec.toNat_or, BitVec.toNat_shiftLeft, Nat.shiftLeft_eq, Nat.mod_eq_of_lt hfit, ← Nat.shiftLeft_eq,
    Nat.shiftLeft_add_eq_or_of_lt hlow]

theorem toNat_flag (b : Bool) : (BitVec.ofNat 32 b.toNat).toNat = b.toNat := by
  cases b <;> rfl

/-- The fields of STATUS by their weights (R23), joined one by one from BUSY up. -/
theorem statusWord_toNat (s : State) : s.statusWord.toNat =
    s.errop.toNat * 256 + s.errcode.toNat * 16 + s.ovr.toNat * 8 + s.err.toNat * 4 + s.done.toNat * 2 + s.busy.toNat := by
  have hop : (s.errop.setWidth 32).toNat = s.errop.toNat := BitVec.toNat_setWidth_of_le (by decide)
  have hcode : (s.errcode.setWidth 32).toNat = s.errcode.toNat := BitVec.toNat_setWidth_of_le (by decide)
  have := s.errop.isLt
  have := s.errcode.isLt
  have := s.ovr.toNat_lt
  have := s.err.toNat_lt
  have := s.done.toNat_lt
  have := s.busy.toNat_lt
  have hdone := toNat_shiftLeft_or 1 (toNat_flag s.done) (toNat_flag s.busy) (by omega) (by omega)
  have herr := toNat_shiftLeft_or 2 (toNat_flag s.err) hdone (by omega) (by omega)
  have hovr := toNat_shiftLeft_or 3 (toNat_flag s.ovr) herr (by omega) (by omega)
  have herrcode := toNat_shiftLeft_or 4 hcode hovr (by omega) (by omega)
  have herrop := toNat_shiftLeft_or 8 hop herrcode (by omega) (by omega)
  simp only [State.statusWord, BitVec.or_assoc]
  rw [herrop]
  ring

/-! ### The counts fit their registers -/

theorem toNat_ofNat_word {n : Nat} (h : n < 2 ^ 32) : (BitVec.ofNat 32 n).toNat = n :=
  (BitVec.toNat_ofNat n 32).trans (Nat.mod_eq_of_lt h)

theorem State.Inv.pixbuf_length_lt {s : State} (h : s.Inv) : s.pixbuf.length < 2 ^ 32 := by
  obtain ⟨_, hpix, _, _⟩ := h.cfg
  have := h.bounded.pixcnt
  omega

theorem State.Inv.bmpbuf_length_lt {s : State} (h : s.Inv) : s.bmpbuf.length < 2 ^ 32 := by
  obtain ⟨_, hpix, _, _⟩ := h.cfg
  have := h.bounded.bmplen
  unfold Wire.ceilDiv at this
  omega

theorem State.Inv.outLevel_lt {s : State} (h : s.Inv) : s.outLevel < 2 ^ 32 := by
  obtain ⟨_, _, _, hout⟩ := h.cfg
  have := h.bounded.outlevel
  omega

/-- No block of OUTFIFO is empty (R43), so OUTBLKS counts them all. -/
theorem State.Inv.outBlks_eq {s : State} (h : s.Inv) : s.outBlks = s.outfifo.length :=
  List.countP_eq_length.2 fun b hb => by
    have hne : b ≠ [] := List.length_pos_iff.1 (h.bounded.outBlocks b hb).1
    simpa using hne

theorem State.Inv.outfifo_length_le {s : State} (h : s.Inv) : s.outfifo.length ≤ s.outLevel := by
  have hlen : ∀ n ∈ s.outfifo.map List.length, 1 ≤ n := List.forall_mem_map.2 fun b hb => (h.bounded.outBlocks b hb).1
  simpa [State.outLevel] using List.length_le_sum_of_one_le _ hlen

/-! ### Admission -/

/-- An access that R61 does not admit has no offset. -/
theorem admittedOffset_none {c : Config} {addr size : Nat}
    (h : ¬ (size = 4 ∧ ∃ off, addr = c.peeBase + off ∧ off % 4 = 0 ∧ off ≤ 0xFC)) : admittedOffset c addr size = none := by
  refine Option.eq_none_iff_forall_ne_some.2 fun off ho => h ?_
  obtain ⟨hsize, haddr, haligned, hin⟩ := admittedOffset_some ho
  exact ⟨hsize, off, haddr, haligned, hin⟩

theorem hostStep_of_bus {s : State} {a : BusAccess} {rest : List HostStmt} (h : s.prog = .bus a :: rest) :
    hostStep s = busStep a rest s := by
  rw [hostStep, h]

theorem busStep_read {s : State} {off : Nat} (h1 : off % 4 = 0) (h2 : off ≤ 0xFC) (rest : List HostStmt) :
    busStep (.read (s.cfg.peeBase + off) 4) rest s =
      .next { s.afterRead off with results := s.results ++ [s.readValue off], prog := rest } := by
  simp only [busStep, admittedOffset_add s.cfg h1 h2]

theorem busStep_write {s : State} {off : Nat} (h1 : off % 4 = 0) (h2 : off ≤ 0xFC) (v : Word) (rest : List HostStmt) :
    busStep (.write (s.cfg.peeBase + off) 4 v) rest s = memWrite off v (s.goOn rest) := by
  simp only [busStep, admittedOffset_add s.cfg h1 h2]

end Sys2Proof.Machine

namespace Sys2Proof.Proofs

open Sys2Proof.Machine

/-- Settles O41: an access admitted by R61 is performed at its offset, and any other has no offset. -/
theorem accessAdmission : Obligations.AccessAdmission := by
  intro s addr size v rest
  refine ⟨?_, fun hno hprog => ?_⟩
  · rintro ⟨rfl, off, rfl, haligned, hin⟩
    rw [Nat.add_sub_cancel_left]
    refine ⟨fun hprog => ?_, fun hprog => ?_⟩
    · rw [hostStep_of_bus hprog, busStep_read haligned hin]
    · rw [hostStep_of_bus hprog, busStep_write haligned hin]
      obtain ⟨t, ht, _⟩ := memWrite_cases off v (s.goOn rest)
      exact ⟨rfl, t, ht⟩
  · rcases hprog with hprog | hprog <;> simp only [hostStep_of_bus hprog, busStep, admittedOffset_none hno]

/-- Settles O42: each register's value, the counts by the invariant's bounds on them. -/
theorem readTable : Obligations.ReadTable := by
  intro s
  refine ⟨rfl, statusWord_toNat s, rfl, rfl, rfl, fun h => ?pixcnt, fun h => ?bmplen, rfl, ?csum, ?chunkcnt,
    fun h => ?outlevel, fun h => ?outblks, rfl, rfl, fun _ ho => readValue_reserved ho s,
    fun _ ho => afterRead_of_ne_outdata ho s⟩
  case pixcnt => exact toNat_ofNat_word h.pixbuf_length_lt
  case bmplen => exact toNat_ofNat_word h.bmpbuf_length_lt
  case csum => exact BitVec.toNat_setWidth_of_le (by decide)
  case chunkcnt => exact BitVec.toNat_setWidth_of_le (by decide)
  case outlevel => exact toNat_ofNat_word h.outLevel_lt
  case outblks =>
    calc (BitVec.ofNat 32 s.outBlks).toNat
      _ = s.outBlks := toNat_ofNat_word (h.outBlks_eq ▸ h.outfifo_length_le.trans_lt h.outLevel_lt)
      _ = s.outfifo.length := h.outBlks_eq

/-- Settles O43: the writable registers by definition, a busy PEE by `memWrite_busy`, the rest by which register, if any,
stands at the offset. -/
theorem writeTable : Obligations.WriteTable := by
  intro s v
  refine ⟨rfl, rfl, rfl, rfl, rfl, fun hb => ⟨memWrite_busy hb (.inr (.inr (.inl rfl))), fun hv =>
    memWrite_busy hb (.inr (.inr (.inr (.inr ⟨rfl, hv⟩))))⟩, ?_, ?_⟩
  · rintro off (hro | ⟨_, hres, _⟩)
    · exact memWrite_readOnly hro v s
    · exact memWrite_reserved hres v s
  · rintro off (hwo | ⟨_, hres, _⟩)
    · simp only [List.mem_cons, List.not_mem_nil, or_false] at hwo
      rcases hwo with rfl | rfl <;> exact ⟨rfl, afterRead_of_ne_outdata (by decide) s⟩
    · exact ⟨readValue_reserved hres s, afterRead_of_ne_outdata (by omega) s⟩

end Sys2Proof.Proofs
end

/-! ## Proofs of the encoding family: command words, wire blocks, the header and the pixel port -/

section
/-! Command words: which of them are legal (spec/30_encoding.md R90..R92). -/

namespace Sys2Proof

open Machine

/-- The fields of a legal word, read as a number: at most the last opcode. -/
theorem legalFields_iff (w : Word) : (w >>> 8 = 0 ∧ w &&& 0xFF ≤ 6) ↔ w.toNat ≤ 6 := by
  have hrsvd : (w >>> 8).toNat = w.toNat / 256 := Nat.shiftRight_eq_div_pow w.toNat 8
  have hopcode : (w &&& 0xFF).toNat = w.toNat % 256 := Nat.and_two_pow_sub_one_eq_mod w.toNat 8
  rw [← BitVec.toNat_inj, BitVec.le_def, hrsvd, hopcode]
  show w.toNat / 256 = 0 ∧ w.toNat % 256 ≤ 6 ↔ w.toNat ≤ 6
  omega

theorem decodeCmd_of_gt {w : Word} (h : 6 < w.toNat) : decodeCmd w = .illegal (rsvdOf w) (opcodeOf w) := by
  rcases decodeCmd_cases w with ⟨rfl, _⟩ | ⟨rfl, _⟩ | ⟨rfl, _⟩ | ⟨rfl, _⟩ | ⟨rfl, _⟩ | ⟨rfl, _⟩ | ⟨rfl, _⟩ | ⟨_, _, hd⟩
  case inr.inr.inr.inr.inr.inr.inr => exact hd
  all_goals exact absurd h (by decide)

theorem decodeCmd_ne_illegal_iff (w : Word) : w.toNat ≤ 6 ↔ ∀ r o, decodeCmd w ≠ .illegal r o := by
  refine ⟨fun h r o => ?_, fun h => Nat.not_lt.1 fun hgt => h _ _ (decodeCmd_of_gt hgt)⟩
  rcases decodeCmd_cases w with ⟨_, hd⟩ | ⟨_, hd⟩ | ⟨_, hd⟩ | ⟨_, hd⟩ | ⟨_, hd⟩ | ⟨_, hd⟩ | ⟨_, hd⟩ | ⟨hgt, _⟩
  case inr.inr.inr.inr.inr.inr.inr => exact absurd h (Nat.not_le.2 hgt)
  all_goals simp [hd]

theorem decodeCmd_eq_nop_iff (w : Word) : decodeCmd w = .nop ↔ w = 0 := by
  refine ⟨fun h => ?_, fun h => h ▸ rfl⟩
  rcases decodeCmd_cases w with ⟨hw, _⟩ | ⟨_, hd⟩ | ⟨_, hd⟩ | ⟨_, hd⟩ | ⟨_, hd⟩ | ⟨_, hd⟩ | ⟨_, hd⟩ | ⟨_, _, hd⟩
  case inl => exact hw
  all_goals exact absurd (hd.symm.trans h) (by simp)

end Sys2Proof

namespace Sys2Proof.Proofs

open Sys2Proof.Machine

/-- Settles O2: legality is a bound on the word, and an illegal word's step is the error action with no error before it. -/
theorem legalWordsExactlyOpcodes0To6 : Obligations.LegalWordsExactlyOpcodes0To6 := by
  intro w
  rw [legalFields_iff]
  refine ⟨decodeCmd_ne_illegal_iff w, fun h => ?_, decodeCmd_eq_nop_iff w, by decide⟩
  have hd := decodeCmd_of_gt (Nat.not_le.1 h)
  refine ⟨hd, fun s he => ⟨s.raise .illegalCommand (opcodeOf w), ?_, raise_first he _ _⟩⟩
  rw [hd, exec_illegal]

end Sys2Proof.Proofs
end

section
/-! Blocks by their offsets: the command blocks, the JobBody and the header (spec/30_encoding.md R96..R100), and the
checksum as a running sum (spec/41_checksum.md R170, R171). -/

namespace Sys2Proof.Wire

/-! ### A part of a sequence at its offset -/

theorem take_drop_append {pre part post : List Byte} {off len : Nat} (hpre : pre.length = off)
    (hpart : part.length = len) : ((pre ++ part ++ post).drop off).take len = part := by
  rw [List.append_assoc, List.drop_left' hpre, List.take_left' hpart]

theorem getD_append_part {pre part post : List Byte} {off k : Nat} (hpre : pre.length = off) (hk : k < part.length) :
    (pre ++ part ++ post).getD (off + k) 0 = part.getD k 0 := by
  rw [List.append_assoc, List.getD_append_right _ _ _ _ (by omega), hpre, Nat.add_sub_cancel_left,
    List.getD_append _ _ _ _ hk]

theorem le32_getD (v : Word) {k : Nat} (hk : k < 4) : (le32 v).getD k 0 = v.extractLsb' (8 * k) 8 := by
  interval_cases k <;> rfl

/-! ### PrintData and the JobBody -/

@[simp] theorem startJob_length : startJob.length = 6 := rfl
@[simp] theorem formFeed_length : formFeed.length = 2 := rfl
@[simp] theorem statusBlk_length : statusBlk.length = 2 := rfl

@[simp] theorem printData_length (w h : Word) (bm : List Byte) : (printData w h bm).length = 12 + bm.length :=
  Laws.EncodeLength.wirePrintData w h bm

theorem printData_width (w h : Word) (bm : List Byte) {k : Nat} (hk : k < 4) :
    (printData w h bm).getD (4 + k) 0 = w.extractLsb' (8 * k) 8 := by
  rw [printData, List.append_assoc _ (le32 h)]
  exact (getD_append_part rfl hk).trans (le32_getD w hk)

theorem printData_height (w h : Word) (bm : List Byte) {k : Nat} (hk : k < 4) :
    (printData w h bm).getD (8 + k) 0 = h.extractLsb' (8 * k) 8 :=
  (getD_append_part rfl hk).trans (le32_getD h hk)

theorem printData_bitmap (w h : Word) (bm : List Byte) (k : Nat) :
    (printData w h bm).getD (12 + k) 0 = bm.getD k 0 := by
  rw [printData, List.getD_append_right _ _ _ _ (Nat.le_add_right 12 k)]
  exact congrArg (bm.getD · 0) (Nat.add_sub_cancel_left 12 k)

/-! ### The header and its checksum -/

theorem header_bodyLen (L : Word) {k : Nat} (hk : k < 4) :
    (header L).getD (4 + k) 0 = L.extractLsb' (8 * k) 8 :=
  (getD_append_part rfl hk).trans (le32_getD L hk)

theorem checksum_toNat (L : Word) : (checksum L).toNat = byteSum (headerPrefix ++ le32 L) % 256 :=
  BitVec.toNat_ofNat _ 8

/-- Reducing the sum after each addition gives the same byte as reducing it once (R170). -/
theorem foldl_add_eq (a : Byte) (bs : List Byte) : bs.foldl (· + ·) a = a + BitVec.ofNat 8 (byteSum bs) := by
  induction bs generalizing a with
  | nil => exact (BitVec.add_zero a).symm
  | cons b bs ih =>
    rw [List.foldl_cons, ih, BitVec.add_assoc]
    simp [byteSum, BitVec.ofNat_add]

/-- The header's fixed bytes add up to 0x35 (R171). -/
theorem checksum_eq (L : Word) : checksum L = 0x35 + BitVec.ofNat 8 (byteSum (le32 L)) := by
  simp only [checksum, byteSum, List.map_append, List.sum_append, BitVec.ofNat_add]
  rfl

theorem checksum_eq_foldl (L : Word) : checksum L = (le32 L).foldl (· + ·) 0x35 :=
  (checksum_eq L).trans (foldl_add_eq 0x35 (le32 L)).symm

theorem checksum_eq_iff (L M : Word) :
    byteSum (le32 L) % 256 = byteSum (le32 M) % 256 ↔ checksum L = checksum M := by
  rw [checksum_eq, checksum_eq, BitVec.add_right_inj, ← BitVec.toNat_inj, BitVec.toNat_ofNat, BitVec.toNat_ofNat]

end Sys2Proof.Wire

namespace Sys2Proof.Proofs

open Sys2Proof.Machine

/-- Settles O8: each block is a part of the body, and what stands before it has the offset's length. -/
theorem jobBodyLayout : Obligations.JobBodyLayout := by
  intro w h bm
  have hlen := Wire.body_length w h bm
  refine ⟨hlen, rfl, ?printData, ?formFeed, ?status, ?endBlk, rfl, ?width32⟩
  case printData =>
    have hparts : Wire.body w h bm =
        Wire.startJob ++ Wire.printData w h bm ++ (Wire.formFeed ++ Wire.statusBlk ++ Wire.endBlk) := by
      simp only [Wire.body, List.append_assoc]
    rw [hparts]
    exact Wire.take_drop_append rfl (Wire.printData_length w h bm)
  case formFeed =>
    have hparts : Wire.body w h bm =
        Wire.startJob ++ Wire.printData w h bm ++ Wire.formFeed ++ (Wire.statusBlk ++ Wire.endBlk) :=
      List.append_assoc _ Wire.statusBlk Wire.endBlk
    rw [hparts]
    exact Wire.take_drop_append (by simp; omega) rfl
  case status => exact Wire.take_drop_append (by simp; omega) rfl
  case endBlk => exact List.drop_left' (by simp; omega)
  case width32 =>
    rintro rfl hdim
    have harea : 32 * h.toNat = 8 * bm.length := (dimOK_iff _ _ _).1 hdim
    omega

/-- Settles O11: the header part by part, and the checksum as a running sum over the length's bytes. -/
theorem headerAndAdditiveChecksum : Obligations.HeaderAndAdditiveChecksum := by
  refine ⟨fun L => ⟨Wire.header_length L, rfl, fun k hk => Wire.header_bodyLen L hk, rfl, ?sum,
    Wire.checksum_eq_foldl L, Wire.checksum_eq_foldl L⟩, Wire.checksum_eq_iff, by decide⟩
  case sum =>
    rw [Wire.checksum_toNat]
    simp [Wire.byteSum, Wire.headerPrefix, Wire.le32, ← Nat.add_assoc]

/-- Settles O7: the constant blocks are written out in the model, and PrintData's fields stand at their offsets. -/
theorem commandBlockLayouts : Obligations.CommandBlockLayouts :=
  ⟨rfl, rfl, rfl, rfl, rfl, rfl, rfl, rfl,
    fun w h bm => ⟨rfl, Wire.printData_length w h bm, rfl, fun _ => Wire.printData_width w h bm,
      fun _ => Wire.printData_height w h bm, fun k _ => Wire.printData_bitmap w h bm k⟩,
    by decide⟩

end Sys2Proof.Proofs
end

section
/-! The pixel port (spec/40_serializer.md R140). -/

namespace Sys2Proof.Machine

theorem memWrite_pixin_room {s : State} (v : Word) (hb : s.busy = false) (hl : s.pixbuf.length < s.cfg.pixCap) :
    memWrite 0x10 v s = .next (s.appendPixel (pixelOf v)) := by
  show Host.Outcome.next (s.pixelIn v) = _
  simp [State.pixelIn, State.unlessBusy, hb, hl]

/-- The error action in the error state, with no command to end: the first error stays, DONE is cleared (R252). -/
theorem raise_again {s : State} (he : s.err = true) (hb : s.busy = false) (e : ErrorKind) (op : Byte) :
    s.raise e op = { s with done := false } := by
  obtain ⟨hp, hem⟩ := (busy_false_iff s).1 hb
  simp [State.raise, he, hp, hem]

/-- A PIXIN write reads only bit 0 of the word (R94). -/
theorem pixelIn_congr {v v' : Word} (h : pixelOf v = pixelOf v') (s : State) : s.pixelIn v = s.pixelIn v' := by
  rw [State.pixelIn, State.pixelIn, h]

end Sys2Proof.Machine

namespace Sys2Proof.Proofs

open Sys2Proof.Machine

/-- Settles O44, case by case: busy, room, a full buffer without and with an error before it. -/
theorem pixelPort : Obligations.PixelPort := by
  refine ⟨fun s v hb => memWrite_busy hb (.inr (.inr (.inl rfl))), fun s v => memWrite_pixin_room v,
    fun s v hb hfull he => ⟨_, memWrite_pixin_full v hb hfull.ge, raise_first he _ _, rfl⟩,
    fun s v hb hfull he => ?again, fun s v v' h => congrArg Host.Outcome.next (pixelIn_congr h s),
    ⟨_, _, rfl, rfl, rfl, rfl⟩⟩
  case again => rw [memWrite_pixin_full v hb hfull.ge, raise_again he hb]

end Sys2Proof.Proofs
end

/-! ## Proofs of the serializer family: le32, pack, the dimension check, PACK and BUILD -/

section
/-! The bit serializer (spec/40_serializer.md R130..R132): a word's four bytes, and the packed bits one by one. -/

namespace Sys2Proof.Wire

/-- A word's four bytes determine it: a receiver reads from them the word that was written (R68). -/
theorem ofLe32_of_le32_eq {v : Word} {b0 b1 b2 b3 : Byte} (h : le32 v = [b0, b1, b2, b3]) : ofLe32 b0 b1 b2 b3 = v := by
  simp only [le32, List.cons.injEq, and_true] at h
  obtain ⟨rfl, rfl, rfl, rfl⟩ := h
  exact ofLe32_le32 v

/-- Bit j of a sum of bits, each shifted to its own place, is bit j of the sequence. -/
theorem testBit_sum_shiftLeft (f : Nat → Bool) (n j : Nat) :
    ((List.range n).map fun i => (f i).toNat <<< i).sum.testBit j = (decide (j < n) && f j) := by
  induction n generalizing f j with
  | zero => simp
  | succ n ih =>
    have hbit : ((List.range (n + 1)).map fun i => (f i).toNat <<< i).sum =
        Nat.bit (f 0) ((List.range n).map fun i => (f (i + 1)).toNat <<< i).sum := by
      rw [Nat.bit_val, ← List.sum_map_mul_left, List.range_succ_eq_map, List.map_cons, List.sum_cons, List.map_map,
        Nat.add_comm]
      simp only [Function.comp_def, Nat.succ_eq_add_one, Nat.shiftLeft_succ, Nat.shiftLeft_zero]
    rw [hbit]
    cases j with
    | zero => simp
    | succ j => rw [Nat.testBit_bit_succ, ih]; simp

theorem packByte_getLsbD (p : List Bool) (k : Nat) {j : Nat} (hj : j < 8) :
    (packByte p k).getLsbD j = p.getD (8 * k + j) false := by
  have hterm : ∀ i, pixelTerm p i = (p.getD i false).toNat := fun i => (Bool.cond_eq_ite _ _ _).symm
  simp only [packByte, hterm, BitVec.getLsbD_ofNat, hj, decide_true, Bool.true_and,
    testBit_sum_shiftLeft fun i => p.getD (8 * k + i) false]

/-- The packed bits, past the pixels and past the bytes too: where there is no pixel there is 0 (R131). -/
theorem pack_getLsbD (p : List Bool) (k : Nat) {j : Nat} (hj : j < 8) :
    ((pack p).getD k 0).getLsbD j = p.getD (8 * k + j) false := by
  have hlen := pack_length p
  by_cases hk : k < (pack p).length
  · rw [List.getD_eq_getElem _ _ hk]
    simp only [pack, List.getElem_map, List.getElem_range]
    exact packByte_getLsbD p k hj
  · rw [List.getD_eq_default _ _ (by omega), List.getD_eq_default _ _ (by omega)]
    exact BitVec.getLsbD_zero

end Sys2Proof.Wire

namespace Sys2Proof.Proofs

open Sys2Proof.Machine

/-- Settles O5: a word's bytes are the ones a receiver reads it from, whose weighted sum is the word. -/
theorem le32LittleEndian : Obligations.Le32LittleEndian := by
  refine ⟨fun v => ⟨rfl, fun b0 b1 b2 b3 h => ?_⟩, by decide⟩
  have hv := Wire.ofLe32_toNat b0 b1 b2 b3
  rw [Wire.ofLe32_of_le32_eq h] at hv
  exact hv.symm

/-- Settles O6, from the packed length and the packed bits. -/
theorem packPutsPixelsLsbFirst : Obligations.PackPutsPixelsLsbFirst := by
  refine ⟨fun p => ⟨Wire.pack_length p, fun w h hp => hp ▸ Wire.pack_length p, fun k j _ hj => ?_⟩, by decide⟩
  rw [Wire.pack_getLsbD p k hj]
  by_cases hpix : 8 * k + j < p.length
  · rw [decide_eq_true hpix, Bool.true_and]
  · rw [decide_eq_false hpix, Bool.false_and, List.getD_eq_default _ _ (Nat.not_lt.1 hpix)]

end Sys2Proof.Proofs
end

section
/-! The dimension check and the commands PACK and BUILD (spec/40_serializer.md R141..R145). -/

namespace Sys2Proof.Machine

/-- The dimension check on a packed raster: the area is the pixel count, rounded up to whole bytes (R145). -/
theorem dimOK_pack_iff (w h : Word) (p : List Bool) :
    dimOK w h (Wire.pack p).length = true ↔ w.toNat * h.toNat = 8 * ((p.length + 7) / 8) := by
  rw [dimOK_iff, Wire.pack_length]

/-- Of exactly as many pixels as the area, the whole-byte ones pass. -/
theorem dimOK_pack_exact {w h : Word} {p : List Bool} (hp : p.length = w.toNat * h.toNat) :
    dimOK w h (Wire.pack p).length = true ↔ w.toNat * h.toNat % 8 = 0 := by
  rw [dimOK_pack_iff, ← hp]
  omega

/-- The end of an execute step that raised no error, as one update of DONE (R221). -/
theorem complete_eq (s : State) : s.complete = { s with done := s.done || decide (s.emit = []) } := by
  have hempty : s.emit.isEmpty = decide (s.emit = []) := by cases s.emit <;> rfl
  rw [State.complete, hempty]

/-- PACK as one update of the state (R141). -/
theorem exec_pack_eq (s : State) :
    exec .pack s = .next { s with bmpbuf := Wire.pack s.pixbuf, done := s.done || decide (s.emit = []) } := by
  rw [exec_pack, complete_eq]
  rfl

/-- A BUILD whose checks hold, as one update of the state (R142). -/
theorem exec_build_success {s : State} (hdim : s.width.toNat * s.height.toNat = 8 * s.bmpbuf.length)
    (hlen : 24 + s.bmpbuf.length ≤ 2 ^ 32 - 1) :
    exec .build s = .next { s with
      bodybuf := Wire.body s.width s.height s.bmpbuf
      bodylen := BitVec.ofNat 32 (24 + s.bmpbuf.length)
      done := s.done || decide (s.emit = []) } := by
  show execBuild s = _
  rw [execBuild, if_pos ((dimOK_iff _ _ _).2 hdim), if_pos ((lenOK_iff _).2 hlen), complete_eq, State.setBody,
    Wire.body_length]

theorem exec_build_dimensionMismatch {s : State} (hdim : s.width.toNat * s.height.toNat ≠ 8 * s.bmpbuf.length) :
    exec .build s = .next (s.raise .dimensionMismatch 0x03) :=
  if_neg fun h => hdim ((dimOK_iff _ _ _).1 h)

theorem exec_build_lengthOverflow {s : State} (hdim : s.width.toNat * s.height.toNat = 8 * s.bmpbuf.length)
    (hlen : 2 ^ 32 - 1 < 24 + s.bmpbuf.length) : exec .build s = .next (s.raise .lengthOverflow 0x03) :=
  (if_pos ((dimOK_iff _ _ _).2 hdim)).trans (if_neg fun h => Nat.not_le.2 hlen ((lenOK_iff _).1 h))

end Sys2Proof.Machine

namespace Sys2Proof.Proofs

open Sys2Proof.Machine

/-- Settles O9: each clause is the check on the packed length. -/
theorem dimensionCheck : Obligations.DimensionCheck := by
  refine ⟨dimOK_iff, fun w h p h8 hle hlt => (dimOK_pack_iff w h p).2 ?short, fun w h p hp =>
    ⟨dimOK_pack_exact hp, fun hw => (dimOK_pack_exact hp).2 ?width32⟩⟩
  case short => omega
  case width32 =>
    rw [hw]
    exact Nat.mod_eq_zero_of_dvd (Dvd.dvd.mul_right (by decide) _)

/-- Settles O23, from PACK's one update and the packed bits, of which those past the last pixel are 0. -/
theorem packCommand : Obligations.PackCommand := by
  refine ⟨by decide, exec_pack_eq, fun s he => ⟨_, exec_pack_eq s, by simp [he], rfl⟩,
    fun s hp => ⟨_, exec_pack_eq s, congrArg Wire.pack hp⟩,
    fun s => ⟨_, exec_pack_eq s, fun j => ⟨?count, ?padding⟩⟩, fun s hp => ?threePixels⟩
  case count =>
    have hlen := Wire.pack_length s.pixbuf
    dsimp only
    omega
  case padding =>
    intro hj hpast
    exact (Wire.pack_getLsbD s.pixbuf _ hj).trans (List.getD_eq_default _ _ hpast)
  case threePixels =>
    have hbm : Wire.pack s.pixbuf = [0x07] := by rw [hp]; decide
    exact ⟨_, exec_pack_eq s, hbm, congrArg (fun bm : List Byte => BitVec.ofNat 32 bm.length) hbm⟩

/-- Settles O24, outcome by outcome; the corner cases are instances of success or of a mismatch. -/
theorem buildCommand : Obligations.BuildCommand := by
  refine ⟨by decide, fun s => exec_build_success,
    fun s he hdim => ⟨_, exec_build_dimensionMismatch hdim, raise_first he _ _⟩,
    fun s he hdim hlen => ⟨_, exec_build_lengthOverflow hdim hlen, raise_first he _ _⟩,
    fun s hbm hzero => ?zeroArea, fun s hw hh he => ?exactArea, fun s hw hh hbm => ?twoRows⟩
  case zeroArea =>
    have hdim : s.width.toNat * s.height.toNat = 8 * s.bmpbuf.length := by
      rcases hzero with h | h <;> simp [h, hbm]
    exact ⟨_, exec_build_success hdim (by simp [hbm]), by simp [Wire.body_length, hbm], by simp [hbm], rfl⟩
  case exactArea =>
    have harea : s.width.toNat * s.height.toNat = 2 ^ 32 := by rw [hw, hh]; decide
    by_cases hN : s.bmpbuf.length = 2 ^ 29
    · exact ⟨_, exec_build_success (by omega) (by omega), iff_of_true he hN⟩
    · exact ⟨_, exec_build_dimensionMismatch (by omega), iff_of_false (Bool.noConfusion ·) hN⟩
  case twoRows =>
    refine ⟨_, exec_build_success (by simp [hw, hh, hbm]) (by simp [hbm]), by simp [hbm], ?_⟩
    simp only [hw, hh, hbm]
    decide

end Sys2Proof.Proofs
end

/-! ## Proofs of the checksum family: HEADER and the CSUM register -/

section
/-! The checksum engine's command HEADER (spec/41_checksum.md R173), and the engine steps that follow it: emission with room,
the hold without (spec/43_control.md R226). -/

namespace Sys2Proof.Machine

/-! ### Engine steps, one after another -/

/-- An engine step with a word pending is that word's execute step (R221). -/
theorem engineStep_of_pending {s : State} {w : Word} (hp : s.pending = some w) :
    engineStep s = exec (decodeCmd w) { s with pending := none } := by
  rw [engineStep, hp]

theorem engineSteps_succ {s t : State} (h : engineStep s = .next t) (n : Nat) :
    engineSteps (n + 1) s = engineSteps n t := by
  rw [engineSteps, h]

/-- An engine whose next block does not fit stays as it is, however many steps it is given (R226). -/
theorem engineSteps_held (n : Nat) {s : State} {c : Block} {rest : List Block} (hp : s.pending = none)
    (he : s.emit = c :: rest) (hfull : s.cfg.outCap < s.outLevel + c.length) : engineSteps n s = .next s := by
  have hheld : engineStep s = .next s := by
    rcases emission_cases s with ⟨b, rest', _, he', hf, _⟩ | ⟨hs, _⟩
    · obtain ⟨rfl, _⟩ := List.cons.inj (he.symm.trans he')
      exact absurd (of_decide_eq_true hf) (Nat.not_le.2 hfull)
    · rw [engineStep, hp, hs]
  induction n with
  | zero => rfl
  | succ n ih => rw [engineSteps_succ hheld, ih]

/-! ### HEADER -/

/-- HEADER as one update of the state: a block is left to emit, so DONE stays (R173, R221). -/
theorem exec_header_eq (s : State) :
    exec .header s = .next { s with csum := Wire.checksum s.bodylen, emit := [Wire.header s.bodylen] } := by
  rw [exec_header, complete_eq]
  simp [State.setEmit, State.setCsum]

theorem engineStep_header {s : State} (hp : s.pending = some 4) :
    engineStep s = .next { s with
      pending := none, csum := Wire.checksum s.bodylen, emit := [Wire.header s.bodylen] } :=
  (engineStep_of_pending hp).trans (exec_header_eq _)

end Sys2Proof.Machine

namespace Sys2Proof.Proofs

open Sys2Proof.Machine

/-- Settles O25: the execute step leaves one block of 9 bytes to emit, which enters OUTFIFO or holds the engine. -/
theorem headerCommand : Obligations.HeaderCommand := by
  refine ⟨by decide, exec_header_eq, fun s hp he hroom => ?room, fun s n hp hfull => ?held,
    fun s hL => ⟨_, exec_header_eq s, ?empty⟩, fun s hL => ⟨_, exec_header_eq s, ?bytes717⟩⟩
  case room =>
    rw [engineSteps_succ (engineStep_header hp) 1]
    refine (engineSteps_emit [Wire.header s.bodylen] rfl rfl ?_).trans ?_
    · simpa [State.outLevel] using hroom
    · simp [he]
  case held =>
    rw [engineSteps_succ (engineStep_header hp)]
    exact engineSteps_held n rfl rfl (by simpa [State.outLevel] using hfull)
  case empty =>
    simp only [hL]
    decide
  case bytes717 =>
    simp only [hL]
    decide

end Sys2Proof.Proofs
end

section
/-! The register CSUM (spec/41_checksum.md R174): which commands write it, and that nothing else does but reset. -/

namespace Sys2Proof.Machine

/-- Of the commands, only CLEAR, HEADER and JOB write CSUM. -/
theorem execCmd_csum {s t : State} {w : Word} (hx : exec (decodeCmd w) s = .next t) (h1 : w ≠ 1) (h4 : w ≠ 4)
    (h6 : w ≠ 6) : t.csum = s.csum := by
  rcases execCmd_cases hx with ⟨_, rfl⟩ | ⟨rfl, _⟩ | ⟨_, rfl⟩ | ⟨_, _, _, rfl⟩ | ⟨rfl, _⟩ | ⟨_, _, rfl⟩ | ⟨rfl, _⟩ |
    ⟨_, rfl, _⟩
  case inr.inl => exact absurd rfl h1
  case inr.inr.inr.inr.inl => exact absurd rfl h4
  case inr.inr.inr.inr.inr.inr.inl => exact absurd rfl h6
  all_goals rfl

/-- A JOB with no error before it succeeds, with CSUM the checksum of its BODYLEN, or fails and keeps CSUM (R224, R255). -/
theorem exec_job_csum {s t : State} (hx : exec .job s = .next t) (he : s.err = false) :
    (t.err = false ∧ t.csum = Wire.checksum t.bodylen) ∨ (t.err = true ∧ t.csum = s.csum) := by
  rcases execJob_cases s with ⟨_, _, _, hj⟩ | ⟨_, _, _, hj⟩ | ⟨_, _, hj⟩ | ⟨_, hj⟩ <;> cases hx.symm.trans hj
  case inl => exact .inl (by simp [he])
  all_goals exact .inr ⟨rfl, rfl⟩

/-- No write of the window reaches CSUM (R66). -/
theorem memWrite_csum {s t : State} {off : Nat} {v : Word} (hm : memWrite off v s = .next t) : t.csum = s.csum := by
  rcases memWrite_next_cases hm with rfl | ⟨_, rfl, _⟩ | ⟨_, _, rfl⟩ | ⟨_, _, rfl⟩ | ⟨_, _, rfl⟩ | ⟨_, _, _, rfl⟩ |
    ⟨_, _, _, rfl⟩ | ⟨_, _, _, _, rfl⟩ <;> rfl

theorem step_csum {s t : State} (hs : step s = .next t) (h4 : ¬ s.executes 4) (h6 : ¬ s.executes 6) (hc : ¬ s.clears) :
    t.csum = s.csum := by
  rcases step_kind_cases hs with ⟨w, hw, hx⟩ | ⟨b, rest, _, _, rfl⟩ | ⟨off, v, rest, _, hm⟩ | ⟨_, hr, _⟩ | ⟨_, ht⟩
  · refine execCmd_csum (s := { s.spendTurn with pending := none }) hx ?_ ?_ ?_ <;> rintro rfl
    · exact hc (.inl hw)
    · exact h4 hw
    · exact h6 hw
  · rfl
  · exact memWrite_csum (s := s.spendTurn.goOn rest) hm
  · exact absurd (.inr hr) hc
  · rw [ht]

/-- The step that executes a pending word runs that word's instruction, with the turn spent and PENDING emptied (R221). -/
theorem step_of_executes {s : State} {w : Word} (h : s.executes w) :
    step s = exec (decodeCmd w) { s.spendTurn with pending := none } := by
  obtain ⟨hturn, hp⟩ := h
  rw [step, hturn]
  exact engineStep_of_pending (s := s.spendTurn) hp

end Sys2Proof.Machine

namespace Sys2Proof.Proofs

open Sys2Proof.Machine

/-- Settles O26, from what a step and each of the two commands make of CSUM. -/
theorem checksumRegisterKept : Obligations.ChecksumRegisterKept := by
  refine ⟨fun s t => step_csum, fun s t hs hw he ht => ?failedJob, fun s t hx => ?header, fun s t hx he ht => ?job⟩
  case failedJob =>
    rcases exec_job_csum ((step_of_executes hw).symm.trans hs) he with ⟨hok, _⟩ | ⟨_, hkept⟩
    · exact absurd (hok.symm.trans ht) (by decide)
    · exact hkept
  case header =>
    cases (exec_header_eq s).symm.trans hx
    rfl
  case job =>
    rcases exec_job_csum hx he with ⟨_, hsum⟩ | ⟨hfail, _⟩
    · exact hsum
    · exact absurd (hfail.symm.trans ht) (by decide)

end Sys2Proof.Proofs
end

/-! ## Proofs of the framer family: the chunks of a body and FRAME -/

section
/-! The chunks of a body (spec/42_framer.md R191..R199): how many there are, what each holds, and the way back. -/

namespace Sys2Proof.Wire

open Sys2Proof.Claims

/-! ### How many chunks -/

/-- The chunks reach the end of the body. -/
theorem length_le_nchunks_mul (L : Nat) : L ≤ nchunks L * 500 := by
  rw [nchunks_eq]
  split <;> omega

/-- The chunks before the last do not, of a body that is not empty. -/
theorem nchunks_pred_mul_lt {L : Nat} (hL : 1 ≤ L) : (nchunks L - 1) * 500 < L := by
  rw [nchunks_eq, if_neg (by omega)]
  omega

theorem nchunks_of_le {L : Nat} (hL : L ≤ 500) : nchunks L = 1 := by
  rw [nchunks_eq]
  split <;> omega

/-- The chunks before the last are full, also where there is none before it. -/
theorem nchunks_pred_mul_le (L : Nat) : (nchunks L - 1) * 500 ≤ L := by
  rcases Nat.eq_zero_or_pos L with rfl | hL
  · decide
  · exact (nchunks_pred_mul_lt hL).le

theorem nchunks_le_maxChunks {L : Nat} (hL : L ≤ 128000) : nchunks L ≤ 256 :=
  (Machine.framable_iff L).1 ((Machine.framable_iff_le L).2 hL)

/-! ### What each chunk holds -/

theorem chunks_getD {B : List Byte} {i : Nat} (hi : i < nchunks B.length) : (chunks B).getD i [] = chunk B i := by
  rw [List.getD_eq_getElem _ _ (by rwa [chunks_length])]
  simp only [chunks, List.getElem_map, List.getElem_range]

/-- A payload as R192 writes its slice: from 500 i to min(500 (i + 1), len). -/
theorem payload_eq_slice (B : List Byte) (i : Nat) :
    payload B i = (B.drop (500 * i)).take (min (500 * (i + 1)) B.length - 500 * i) := by
  rw [payload, chunkSize, Nat.mul_comm i, List.take_eq_take_iff, List.length_drop]
  omega

/-- The trailer's 2 bytes are on the last chunk only (R194, R199). -/
theorem chunk_length (B : List Byte) (i : Nat) :
    (chunk B i).length = 1 + (payload B i).length + if i + 1 = nchunks B.length then 2 else 0 := by
  rw [chunk, List.length_append, List.length_append]
  split <;> rfl

theorem chunk_length_of_not_last {B : List Byte} {i : Nat} (hi : i < nchunks B.length - 1) :
    (chunk B i).length = 501 := by
  have hfull := nchunks_pred_mul_le B.length
  rw [chunk_length, payload_length, if_neg (by omega)]
  omega

theorem chunk_length_last (B : List Byte) :
    (chunk B (nchunks B.length - 1)).length = 1 + (B.length - 500 * (nchunks B.length - 1)) + 2 := by
  have hpos := nchunks_pos B.length
  have hreach := length_le_nchunks_mul B.length
  rw [chunk_length, payload_length, if_pos (by omega)]
  omega

/-- All chunks together: 501 bytes each before the last, and the last (R199). -/
theorem chunks_length_sum (B : List Byte) : ((chunks B).map List.length).sum = B.length + nchunks B.length + 2 := by
  obtain ⟨m, hm⟩ : ∃ m, nchunks B.length = m + 1 := Nat.exists_eq_add_one.2 (nchunks_pos _)
  have hlast := chunk_length_last B
  have hstart := nchunks_pred_mul_le B.length
  have hfull : ((List.range m).map fun i => (chunk B i).length).sum = m * 501 := by
    have hsum := List.sum_eq_card_nsmul ((List.range m).map fun i => (chunk B i).length) 501
      (List.forall_mem_map.2 fun i hi => chunk_length_of_not_last (by rw [hm]; exact List.mem_range.1 hi))
    simpa using hsum
  rw [hm, Nat.add_sub_cancel] at hlast hstart
  rw [chunks, List.map_map, hm, List.range_succ, List.map_append, List.sum_append]
  simp only [Function.comp_def, hfull, List.map_cons, List.map_nil, List.sum_cons, List.sum_nil, hlast]
  omega

/-- A body of at most 500 bytes is one chunk, the empty one too (R192). -/
theorem chunks_of_length_le {B : List Byte} (hB : B.length ≤ 500) : chunks B = [[0x00] ++ B ++ [0x12, 0x34]] := by
  have hpayload : payload B 0 = B := by
    rw [payload, Nat.zero_mul, List.drop_zero]
    exact List.take_of_length_le hB
  rw [chunks, nchunks_of_le hB, List.range_one, List.map_singleton, chunk, hpayload, nchunks_of_le hB]
  rfl

/-! ### Back to the body -/

/-- The first n payloads one after another are the first n times 500 bytes of the body. -/
theorem flatMap_payload (B : List Byte) (n : Nat) : (List.range n).flatMap (payload B) = B.take (n * chunkSize) := by
  induction n with
  | zero => simp
  | succ n ih =>
    rw [List.range_succ, List.flatMap_append, ih, List.flatMap_singleton, Nat.succ_mul, List.take_add, payload]

/-- What a receiver keeps of a chunk is its payload (R198). -/
theorem stripped_chunk (B : List Byte) (i : Nat) : stripped (nchunks B.length) i (chunk B i) = payload B i := by
  rw [stripped, chunk_length, chunk]
  split
  · show (payload B i ++ trailer).take _ = payload B i
    exact List.take_left' (by omega)
  · exact List.append_nil _

theorem flatMap_stripped_chunks (B : List Byte) :
    (List.range (chunks B).length).flatMap (fun i => stripped (chunks B).length i ((chunks B).getD i [])) = B := by
  rw [chunks_length]
  calc (List.range (nchunks B.length)).flatMap (fun i => stripped (nchunks B.length) i ((chunks B).getD i []))
      = (List.range (nchunks B.length)).flatMap (payload B) :=
        List.flatMap_congr fun i hi => by rw [chunks_getD (List.mem_range.1 hi), stripped_chunk]
    _ = B.take (nchunks B.length * chunkSize) := flatMap_payload B _
    _ = B := List.take_of_length_le (length_le_nchunks_mul _)

end Sys2Proof.Wire

namespace Sys2Proof.Proofs

open Sys2Proof.Machine

/-- Settles O14: a chunk stripped is its payload, and the payloads make up the body. -/
theorem chunksReconstructTheBody : Obligations.ChunksReconstructTheBody := fun B _ => Wire.flatMap_stripped_chunks B

/-- Settles O12, from the two bounds on nchunks; the listed values are computed. -/
theorem chunkCount : Obligations.ChunkCount := by
  refine ⟨by decide, fun L hL => ⟨Wire.nchunks_pred_mul_lt hL, Wire.length_le_nchunks_mul L, Wire.nchunks_pos L⟩,
    fun w h bm hnil => ?nonempty, by decide, by decide, by decide, by decide, by decide, by decide, by decide, by decide,
    framable_iff_le⟩
  case nonempty =>
    have hlen := Wire.body_length w h bm
    rw [hnil, List.length_nil] at hlen
    omega

/-- Settles O13, chunk by chunk: its contents, the index as its first byte, its length; then the last slice and the sum. -/
theorem chunkContents : Obligations.ChunkContents := by
  intro B hB
  have hpos := Wire.nchunks_pos B.length
  refine ⟨Wire.chunks_length B, fun i hi => ?chunk, fun hne => ?lastSlice, Wire.chunks_length_sum B⟩
  case chunk =>
    rw [Wire.chunks_getD hi]
    refine ⟨?contents, ?index, ?length⟩
    case contents =>
      rw [Wire.chunk, Wire.payload_eq_slice]
      exact congrArg _ (if_congr (by omega) rfl rfl)
    case index =>
      have hmax := Wire.nchunks_le_maxChunks hB
      exact Nat.mod_eq_of_lt (by omega)
    case length =>
      split
      next hfull => exact Wire.chunk_length_of_not_last hfull
      next hlast =>
        obtain rfl : i = Wire.nchunks B.length - 1 := by omega
        exact Wire.chunk_length_last B
  case lastSlice =>
    have hstart := Wire.nchunks_pred_mul_lt (List.length_pos_iff.2 hne)
    have hreach := Wire.length_le_nchunks_mul B.length
    omega

end Sys2Proof.Proofs
end

section
/-! The packet framer's command FRAME (spec/42_framer.md R197). -/

namespace Sys2Proof.Machine

/-- A FRAME within the chunk limit, as one update of the state: there are chunks left to emit, so DONE stays (R197, R221). -/
theorem exec_frame_success {s : State} (hB : s.bodybuf.length ≤ 128000) :
    exec .frame s = .next { s with
      chunkcnt := BitVec.ofNat 9 (Wire.nchunks s.bodybuf.length), emit := Wire.chunks s.bodybuf } := by
  rcases execFrame_cases s with ⟨_, hx⟩ | ⟨hf, _⟩
  · refine hx.trans ?_
    rw [complete_eq]
    simp [State.setEmit, State.setChunkcnt, Wire.chunks_ne_nil]
  · exact absurd ((framable_iff_le _).2 hB) (by simp [hf])

theorem exec_frame_tooManyChunks {s : State} (hB : 128000 < s.bodybuf.length) :
    exec .frame s = .next (s.raise .tooManyChunks 0x05) := by
  rcases execFrame_cases s with ⟨hf, _⟩ | ⟨_, hx⟩
  · exact absurd ((framable_iff_le _).1 hf) (Nat.not_le.2 hB)
  · exact hx

/-- A FRAME of one chunk, as an empty body's and a short one's is. -/
theorem exec_frame_one_chunk {s : State} (hB : s.bodybuf.length ≤ 500) :
    exec .frame s = .next { s with chunkcnt := 1, emit := [[0x00] ++ s.bodybuf ++ [0x12, 0x34]] } := by
  rw [exec_frame_success (by omega), Wire.nchunks_of_le hB, Wire.chunks_of_length_le hB]
  rfl

theorem engineStep_frame {s : State} (hp : s.pending = some 5) (hB : s.bodybuf.length ≤ 128000) :
    engineStep s = .next { s with
      pending := none
      chunkcnt := BitVec.ofNat 9 (Wire.nchunks s.bodybuf.length)
      emit := Wire.chunks s.bodybuf } :=
  (engineStep_of_pending hp).trans (exec_frame_success hB)

end Sys2Proof.Machine

namespace Sys2Proof.Proofs

open Sys2Proof.Machine

/-- Settles O27: the execute step leaves the chunks to emit, which all enter OUTFIFO or hold the engine, or it raises. -/
theorem frameCommand : Obligations.FrameCommand := by
  refine ⟨by decide, fun s => exec_frame_success,
    fun s he hB => ⟨_, exec_frame_tooManyChunks hB, raise_first he _ _⟩, fun s hB => ?empty,
    fun s hp _ hB hroom => ?room, fun s c rest n => engineSteps_held n,
    fun s hB => ⟨_, exec_frame_one_chunk (by omega), rfl, rfl⟩⟩
  case empty => exact ⟨_, exec_frame_one_chunk (by simp [hB]), rfl, by simp [hB]⟩
  case room =>
    rw [Nat.add_comm, engineSteps_succ (engineStep_frame hp hB), ← Wire.chunks_length]
    refine ⟨_, engineSteps_emit (Wire.chunks s.bodybuf) rfl rfl ?_, rfl, rfl, by simp [Wire.chunks_ne_nil]⟩
    rw [Wire.chunks_length_sum, ← Nat.add_assoc, ← Nat.add_assoc]
    exact hroom

end Sys2Proof.Proofs
end

/-! ## Proofs of the control family: command issue, the control commands, the emission step and the output port -/

section
/-! Command issue and the control commands NOP, CLEAR and the illegal word (spec/43_control.md R220, R222, R223, R225). -/

namespace Sys2Proof.Machine

/-! ### Issue -/

/-- The CMD register is the port of command issue (R220). -/
theorem memWrite_cmd (w : Word) (s : State) : memWrite 0x00 w s = issue w s := rfl

theorem issue_nop (s : State) : issue 0 s = .next s := rfl

theorem issue_busy {s : State} {w : Word} (hb : s.busy = true) (hw : w ≠ 0) : issue w s = .next s.setOvr :=
  (memWrite_cmd w s).symm.trans (memWrite_busy hb (.inr (.inr (.inr (.inr ⟨rfl, hw⟩)))))

theorem issue_accept {s : State} {w : Word} (hb : s.busy = false) (hw : w ≠ 0) (he : s.err = true → w = 1) :
    issue w s = .next (s.accept w) :=
  (memWrite_cmd w s).symm.trans (memWrite_accept hb hw he)

/-- In the error state an idle PEE rejects every word but NOP and CLEAR without effect (R254). -/
theorem issue_rejected {s : State} {w : Word} (hb : s.busy = false) (he : s.err = true) (hw : w ≠ 0) (h1 : w ≠ 1) :
    issue w s = .next s := by
  have hreject : (s.err && w ≠ 1) = true := Bool.and_eq_true_iff.2 ⟨he, decide_eq_true h1⟩
  rw [issue, if_neg hw, State.unlessBusy, hb]
  exact congrArg Host.Outcome.next (if_pos hreject)

theorem accept_busy (w : Word) (s : State) : (s.accept w).busy = true := rfl

theorem accept_engineEnabled (w : Word) (s : State) : (s.accept w).engineEnabled = true := rfl

/-! ### Illegal words -/

/-- The fields of an illegal word, read as a number: above the last opcode (R92). -/
theorem illegalFields_iff (w : Word) : (w >>> 8 ≠ 0 ∨ 6 < (w &&& 0xFF).toNat) ↔ 6 < w.toNat := by
  have hlegal := not_congr (legalFields_iff w)
  rw [not_and_or, BitVec.le_def, Nat.not_le, Nat.not_le] at hlegal
  exact hlegal

/-- The execute step of an illegal word is the error action, with the word's bits 7:0 for ERROP (R225). -/
theorem engineStep_illegal {s : State} {w : Word} (hp : s.pending = some w) (hw : 6 < w.toNat) :
    engineStep s = .next (State.raise .illegalCommand (opcodeOf w) { s with pending := none }) := by
  rw [engineStep_of_pending hp, decodeCmd_of_gt hw, exec_illegal]

end Sys2Proof.Machine

namespace Sys2Proof.Proofs

open Sys2Proof.Machine

/-- Settles O29: an illegal word's execute step is the error action with no error before it. -/
theorem illegalWordRaises : Obligations.IllegalWordRaises := by
  refine ⟨fun w s hfields hp hem he => ?_, fun r o s he => ⟨_, exec_illegal r o s, raise_first he _ _⟩,
    ⟨_, _, rfl, rfl, by decide⟩⟩
  rw [engineStep_illegal hp ((illegalFields_iff w).1 hfields), raise_first (s := { s with pending := none }) he, hem]
  rfl

/-- Settles O21: NOP is the word 0 only, and 0x00000100 is an illegal word. -/
theorem nopChangesNothing : Obligations.NopChangesNothing := by
  have hillegal : decodeCmd 0x00000100 = .illegal 1 0 := decodeCmd_of_gt (by decide)
  refine ⟨fun s => ⟨exec_nop s, issue_nop s⟩, rfl, hillegal, fun s he => ⟨s.raise .illegalCommand 0, ?_, raise_first he _ _⟩⟩
  rw [hillegal, exec_illegal]

/-- Settles O22, from `clear` and the cases of command issue. -/
theorem clearCommand : Obligations.ClearCommand :=
  ⟨rfl, fun s => ⟨_, exec_clear s, clear_atReset s, rfl, rfl, rfl, rfl, rfl⟩,
    fun _ hb he => ⟨issue_accept hb (by decide) fun _ => rfl, fun _ => issue_rejected hb he⟩,
    fun _ hb => issue_busy (w := 1) hb (by decide)⟩

/-- Settles O45, case by case of command issue. -/
theorem commandIssue : Obligations.CommandIssue := by
  refine fun s w => ⟨issue_nop s, fun hw hb => issue_busy hb hw, fun hw hb he h1 => issue_rejected hb he hw h1,
    fun hw hb haccepted => ⟨_, issue_accept hb hw ?_, rfl, accept_busy w s⟩⟩
  rcases haccepted with he | h1
  · simp [he]
  · exact fun _ => h1

end Sys2Proof.Proofs
end

section
/-! The engine's steps with nothing pending (spec/43_control.md R226, R229): emission, the hold and what lifts it, and the
idle engine. -/

namespace Sys2Proof.Machine

/-! ### Emission -/

theorem fits_iff (s : State) (b : Block) : s.fits b = true ↔ b.length + s.outLevel ≤ s.cfg.outCap := by
  rw [State.fits, decide_eq_true_iff, Nat.add_comm]

theorem fits_false_iff (s : State) (b : Block) : s.fits b = false ↔ s.cfg.outCap < b.length + s.outLevel := by
  rw [← Bool.not_eq_true, fits_iff, not_le]

/-- Without a pending word, the engine has a step exactly when the head block fits (R226). -/
theorem engineEnabled_of_emit {s : State} {b : Block} {rest : List Block} (hp : s.pending = none)
    (he : s.emit = b :: rest) : s.engineEnabled = s.fits b := by
  rw [State.engineEnabled, hp, he]

theorem engineEnabled_idle {s : State} (hp : s.pending = none) (he : s.emit = []) : s.engineEnabled = false := by
  rw [State.engineEnabled, hp, he]

/-- An engine without a step leaves the state as it is, idle or held (R226, R229). -/
theorem engineStep_of_not_engineEnabled {s : State} (h : s.engineEnabled = false) : engineStep s = .next s := by
  have hno : ¬ s.engineEnabled = true := by simp [h]
  rw [engineEnabled_iff, not_or, not_not] at hno
  obtain ⟨hp, hhead⟩ := hno
  rcases engineStep_cases s with ⟨t, ht, ⟨w, hw, _⟩ | ⟨b, rest, _, he, hf, _⟩ | ⟨_, rfl, _⟩⟩
  · cases hp.symm.trans hw
  · exact absurd ⟨b, rest, hp, he, hf⟩ hhead
  · exact ht

theorem engineStep_emit {s : State} {b : Block} {rest : List Block} (hp : s.pending = none) (he : s.emit = b :: rest)
    (hf : s.fits b = true) : engineStep s = .next (s.emitHead b rest) := by
  rcases engineStep_cases s with ⟨t, ht, ⟨w, hw, _⟩ | ⟨c, rest', _, he', _, rfl⟩ | ⟨_, _, hno⟩⟩
  · cases hp.symm.trans hw
  · obtain ⟨rfl, rfl⟩ := List.cons.inj (he.symm.trans he')
    exact ht
  · exact absurd (hf.symm.trans (hno b rest he)) (by decide)

/-- The emission of a block as one update of the state (R226). -/
theorem emitHead_eq (b : Block) (rest : List Block) (s : State) : s.emitHead b rest =
    { s with outfifo := s.outfifo ++ [b], emit := rest, done := s.done || decide (rest = []) } := by
  have hempty : rest.isEmpty = decide (rest = []) := by cases rest <;> rfl
  rw [State.emitHead, hempty]

/-- An empty OUTFIFO has room for any block the PEE holds (R226). -/
theorem State.Inv.fits_of_outfifo_nil {s : State} {b : Block} (h : s.Inv) (hb : b ∈ s.emit) (ho : s.outfifo = []) :
    s.fits b = true := by
  obtain ⟨_, hlen⟩ := h.bounded.emitBlocks b hb
  obtain ⟨_, _, hcap, _⟩ := h.cfg
  have hlevel : s.outLevel = 0 := by rw [State.outLevel, ho]; rfl
  rw [fits_iff]
  omega

/-! ### The hold -/

theorem held_iff (s : State) :
    s.held = true ↔ ∃ b rest, s.pending = none ∧ s.emit = b :: rest ∧ s.fits b = false := by
  unfold State.held
  split <;> rename_i hp he <;> simp_all

theorem held_busy {s : State} (h : s.held = true) : s.busy = true := by
  obtain ⟨b, rest, _, he, _⟩ := (held_iff s).1 h
  exact (busy_iff s).2 (.inr (by simp [he]))

/-- The window's writes are ignored while the engine is held, so they do not lift the hold (R67). -/
theorem memWrite_held {s t : State} {off : Nat} {v : Word} (hm : memWrite off v s = .next t) (h : s.held = true) :
    t.held = true := by
  have hb := held_busy h
  rcases memWrite_next_cases hm with rfl | ⟨_, rfl, _⟩ | ⟨hidle, _⟩ | ⟨hidle, _⟩ | ⟨hidle, _⟩ | ⟨hidle, _⟩ | ⟨hidle, _⟩ |
    ⟨hidle, _⟩
  case inl => exact h
  case inr.inl => exact h
  all_goals exact absurd (hb.symm.trans hidle) (by decide)

/-- A step that neither reads OUTDATA nor resets keeps the hold (R226). -/
theorem step_held {s t : State} (hs : step s = .next t) (h : s.held = true) (hpops : ¬ s.hostPops)
    (hresets : ¬ s.resets) : t.held = true := by
  obtain ⟨b, rest, hp, he, hf⟩ := (held_iff s).1 h
  rcases step_state_cases hs with ⟨w, ⟨_, hw⟩, _⟩ | ⟨c, _, ⟨_, _, hc, hfits⟩, _⟩ | ⟨p, r, _, _, _, _, _, rfl⟩ |
    ⟨_, _, _, _, hpop, _⟩ | ⟨off, v, after, _, hm⟩ | ⟨_, hr, _⟩
  · cases hp.symm.trans hw
  · rw [he, List.head?_cons, Option.some.injEq] at hc
    exact absurd (hfits.symm.trans (hc ▸ hf)) (by decide)
  · exact h
  · exact absurd hpop hpops
  · exact memWrite_held (s := s.spendTurn.goOn after) hm h
  · exact absurd hr hresets

/-! ### The idle engine -/

/-- BUSY rises by a write only where the PEE accepts a command word (R220, R229). -/
theorem memWrite_busy_rises {s t : State} {off : Nat} {v : Word} (hm : memWrite off v s = .next t)
    (hb : s.busy = false) (ht : t.busy = true) :
    off = 0x00 ∧ v ≠ 0 ∧ (s.err = true → v = 1) ∧ t = s.accept v := by
  have hsame : ∀ {u : State}, u.pending = s.pending → u.emit = s.emit → ¬ u.busy = true := fun hp he => by
    rw [busy_congr hp he, hb]; decide
  rcases memWrite_next_cases hm with rfl | ⟨_, rfl, _⟩ | ⟨_, _, rfl⟩ | ⟨_, _, rfl⟩ | ⟨_, _, rfl⟩ | ⟨_, _, _, rfl⟩ |
    ⟨_, _, _, rfl⟩ | ⟨_, ho, hv, he, ha⟩
  case inr.inr.inr.inr.inr.inr.inl => exact absurd ht (by simp [State.busy])
  case inr.inr.inr.inr.inr.inr.inr => exact ⟨ho, hv, he, ha⟩
  all_goals exact absurd ht (hsame rfl rfl)

/-- A step that makes BUSY 1 is the host's write of a command word that the PEE accepts (R229). -/
theorem step_busy_rises {s t : State} (hs : step s = .next t) (hb : s.busy = false) (ht : t.busy = true) :
    ∃ w, s.hostWrites 0x00 w ∧ w ≠ 0 ∧ (s.err = true → w = 1) ∧ t.pending = some w ∧ t.engineEnabled = true := by
  obtain ⟨hp, hem⟩ := (busy_false_iff s).1 hb
  rcases step_kind_cases hs with ⟨w, ⟨_, hw⟩, _⟩ | ⟨b, rest, _, he, _⟩ | ⟨off, v, rest, hwrite, hm⟩ | ⟨next, _, rfl⟩ |
    ⟨_, hkept⟩
  · cases hp.symm.trans hw
  · cases hem.symm.trans he
  · obtain ⟨rfl, hv, he, rfl⟩ := memWrite_busy_rises (s := s.spendTurn.goOn rest) hm hb ht
    exact ⟨v, hwrite, hv, he, rfl, accept_engineEnabled v _⟩
  · exact absurd ht (by simp [State.busy])
  · have hsame : t.busy = s.busy := busy_congr (by rw [hkept]) (by rw [hkept])
    exact absurd (ht.symm.trans (hsame.trans hb)) (by decide)

end Sys2Proof.Machine

namespace Sys2Proof.Proofs

open Sys2Proof.Machine

/-- Settles O49: the emission step, the hold, the steps that keep the hold, and the invariant's bound on a block. -/
theorem emissionStep : Obligations.EmissionStep := by
  refine ⟨fun s b rest hp he hroom => ?room, fun s b rest hp he hfull => ?full, fun s t h hs ht => ?lifted,
    fun s h hp he ho => ?empty⟩
  case room =>
    have hf := (fits_iff s b).2 hroom
    exact ⟨(engineEnabled_of_emit hp he).trans hf, by rw [engineStep_emit hp he hf, emitHead_eq]⟩
  case full =>
    have hno : s.engineEnabled = false := (engineEnabled_of_emit hp he).trans ((fits_false_iff s b).2 hfull)
    exact ⟨hno, engineStep_of_not_engineEnabled hno⟩
  case lifted =>
    by_contra hneither
    obtain ⟨hpops, hresets⟩ := not_or.1 hneither
    exact absurd (ht.symm.trans (step_held hs h hpops hresets)) (by decide)
  case empty =>
    obtain ⟨b, rest, he⟩ := List.exists_cons_of_ne_nil he
    exact (engineEnabled_of_emit hp he).trans (h.fits_of_outfifo_nil (by simp [he]) ho)

/-- Settles O50: an idle engine is not enabled, and only an accepted command makes it busy. -/
theorem idleUntilACommandIsAccepted : Obligations.IdleUntilACommandIsAccepted :=
  ⟨fun _ hp he => ⟨engineEnabled_idle hp he, engineStep_of_not_engineEnabled (engineEnabled_idle hp he)⟩,
    fun _ _ => step_busy_rises⟩

end Sys2Proof.Proofs
end

section
/-! The output port OUTDATA (spec/43_control.md R228, spec/30_encoding.md R95). -/

namespace Sys2Proof.Machine

/-- The OUTDATA word as a number: VALID, LAST and DATA by their weights (R95). -/
theorem outDataWord_toNat (b : Byte) (last : Bool) : (outDataWord b last).toNat = 512 + last.toNat * 256 + b.toNat := by
  have hdata : (b.setWidth 32).toNat = b.toNat := BitVec.toNat_setWidth_of_le (by decide)
  have := b.isLt
  have := last.toNat_lt
  have hlast := toNat_shiftLeft_or 8 (toNat_flag last) hdata (by omega) (by omega)
  have hvalid := toNat_shiftLeft_or 9 (hi := 1#32) (a := 1) rfl hlast (by decide) (by omega)
  rw [outDataWord, BitVec.or_assoc, hvalid]
  omega

theorem popOut_of_outfifo_nil {s : State} (h : s.outfifo = []) : s.outData = 0 ∧ s.popOut = s := by
  rcases popOut_cases s with ⟨_, hpop, hdata⟩ | ⟨_, _, _, hf, _⟩
  · exact ⟨hdata, hpop⟩
  · rw [h] at hf
    cases hf

/-- A read of OUTDATA takes the first byte of the head block, and the block with its last byte (R228). -/
theorem popOut_of_outfifo_cons {s : State} {b : Byte} {bs : Block} {rest : List Block}
    (h : s.outfifo = (b :: bs) :: rest) :
    s.outData = outDataWord b bs.isEmpty ∧ s.popOut = { s with
      outfifo := if bs = [] then rest else bs :: rest, readPlace := s.readPlace.after false bs.isEmpty } := by
  have hpop := popFifo_cons b bs rest
  rw [← h] at hpop
  rcases popOut_cases s with ⟨hf, _⟩ | ⟨_, _, _, hf, hs, hdata⟩ <;> cases hpop.symm.trans hf
  exact ⟨hdata, hs⟩

/-- A read of OUTDATA leaves STATUS as it is, BUSY with it (R228). -/
theorem popOut_statusWord (s : State) : s.popOut.statusWord = s.statusWord := by
  rw [popOut_eq]
  rfl

end Sys2Proof.Machine

namespace Sys2Proof.Proofs

open Sys2Proof.Machine

/-- Settles O46, from the read of an empty and of a non-empty OUTFIFO. -/
theorem outDataRead : Obligations.OutDataRead := by
  refine ⟨fun s => popOut_of_outfifo_nil, fun s b bs rest h => ?byte, popOut_statusWord, _, _, _, rfl, rfl, rfl,
    by decide⟩
  case byte =>
    obtain ⟨hdata, hpop⟩ := popOut_of_outfifo_cons h
    refine ⟨?word, _, hpop, BlockPlace.after_eq_first.trans List.isEmpty_iff⟩
    show s.outData.toNat = _
    rw [hdata, outDataWord_toNat]
    cases bs <;> simp

end Sys2Proof.Proofs
end

section
/-! The job sequencer's command JOB (spec/43_control.md R224). -/

namespace Sys2Proof.Machine

/-- A command that leaves blocks to emit does not complete at its execute step (R221). -/
theorem complete_of_emit_ne_nil {s : State} (h : s.emit ≠ []) : s.complete = s := by
  rw [complete_eq, decide_eq_false h, Bool.or_false]

/-- A JOB's writes as one update of the state (R224). -/
theorem jobEffect_eq (bm B : List Byte) (s : State) : jobEffect bm B s = { s with
    bmpbuf := bm
    bodybuf := B
    bodylen := BitVec.ofNat 32 B.length
    csum := Wire.checksum (BitVec.ofNat 32 B.length)
    chunkcnt := BitVec.ofNat 9 (Wire.nchunks B.length)
    emit := Wire.header (BitVec.ofNat 32 B.length) :: Wire.chunks B } := by
  simp only [jobEffect, State.setBmpbuf, State.setBody, State.setCsum, State.setChunkcnt, State.setEmit]

theorem exec_job_success {s : State} (hdim : s.width.toNat * s.height.toNat = 8 * (Wire.pack s.pixbuf).length)
    (hlen : 24 + (Wire.pack s.pixbuf).length ≤ 128000) :
    exec .job s = .next (jobEffect (Wire.pack s.pixbuf) (Wire.body s.width s.height (Wire.pack s.pixbuf)) s) := by
  have hframable : framable (Wire.body s.width s.height (Wire.pack s.pixbuf)).length = true :=
    (framable_iff_le _).2 (by rwa [Wire.body_length])
  show execJob s = _
  rw [execJob, if_pos ((dimOK_iff _ _ _).2 hdim), if_pos ((lenOK_iff _).2 (by omega)), if_pos hframable,
    complete_of_emit_ne_nil (List.cons_ne_nil _ _)]

theorem engineStep_job {s : State} (hp : s.pending = some 6)
    (hdim : s.width.toNat * s.height.toNat = 8 * (Wire.pack s.pixbuf).length)
    (hlen : 24 + (Wire.pack s.pixbuf).length ≤ 128000) :
    engineStep s = .next
      (jobEffect (Wire.pack s.pixbuf) (Wire.body s.width s.height (Wire.pack s.pixbuf)) { s with pending := none }) :=
  (engineStep_of_pending hp).trans (exec_job_success (s := { s with pending := none }) hdim hlen)

theorem exec_job_dimensionMismatch {s : State}
    (hdim : s.width.toNat * s.height.toNat ≠ 8 * (Wire.pack s.pixbuf).length) :
    exec .job s = .next (s.raise .dimensionMismatch 0x06) :=
  if_neg fun h => hdim ((dimOK_iff _ _ _).1 h)

theorem exec_job_lengthOverflow {s : State}
    (hdim : s.width.toNat * s.height.toNat = 8 * (Wire.pack s.pixbuf).length)
    (hlen : 2 ^ 32 - 1 < 24 + (Wire.pack s.pixbuf).length) :
    exec .job s = .next (s.raise .lengthOverflow 0x06) :=
  (if_pos ((dimOK_iff _ _ _).2 hdim)).trans (if_neg fun h => Nat.not_le.2 hlen ((lenOK_iff _).1 h))

theorem exec_job_tooManyChunks {s : State}
    (hdim : s.width.toNat * s.height.toNat = 8 * (Wire.pack s.pixbuf).length)
    (hlen : 24 + (Wire.pack s.pixbuf).length ≤ 2 ^ 32 - 1) (hmany : 128000 < 24 + (Wire.pack s.pixbuf).length) :
    exec .job s = .next (s.raise .tooManyChunks 0x06) := by
  have hframe : ¬ framable (Wire.body s.width s.height (Wire.pack s.pixbuf)).length = true := by
    rw [framable_iff_le, Wire.body_length]
    omega
  exact (if_pos ((dimOK_iff _ _ _).2 hdim)).trans ((if_pos ((lenOK_iff _).2 hlen)).trans (if_neg hframe))

/-- The blocks of a job together: 9 bytes of header, then the chunks (R199). -/
theorem job_blocks_length_sum (L : Word) (B : List Byte) :
    ((Wire.header L :: Wire.chunks B).map List.length).sum = 9 + (B.length + Wire.nchunks B.length + 2) := by
  rw [List.map_cons, List.sum_cons, Wire.header_length, Wire.chunks_length_sum]

/-- After a JOB's execute step, with room for all its blocks, one emission step for each puts the header and the chunks
behind what OUTFIFO held and sets DONE (R224, R226). -/
theorem engineSteps_jobEffect (bm : List Byte) {B : List Byte} {s : State} (hp : s.pending = none)
    (hroom : s.outLevel + (9 + (B.length + Wire.nchunks B.length + 2)) ≤ s.cfg.outCap) :
    ∃ t, engineSteps (Wire.nchunks B.length + 1) (jobEffect bm B s) = .next t ∧
      t.outfifo = s.outfifo ++ Wire.header (BitVec.ofNat 32 B.length) :: Wire.chunks B ∧ t.emit = [] ∧ t.done = true := by
  rw [jobEffect_eq, ← Wire.chunks_length, ← List.length_cons (a := Wire.header (BitVec.ofNat 32 B.length))]
  refine ⟨_, engineSteps_emit _ hp rfl ?_, rfl, rfl, by simp⟩
  rwa [job_blocks_length_sum]

end Sys2Proof.Machine

namespace Sys2Proof.Proofs

open Sys2Proof.Machine

/-- Settles O28, outcome by outcome of the checks; with room, one emission step per block follows the execute step. -/
theorem jobCommand : Obligations.JobCommand := by
  refine ⟨rfl, fun s hdim hlen => ?success,
    fun s he hdim => ⟨_, exec_job_dimensionMismatch hdim, raise_first he _ _⟩,
    fun s he hdim hlen => ⟨_, exec_job_lengthOverflow hdim hlen, raise_first he _ _⟩,
    fun s he hdim hlen hmany => ⟨_, exec_job_tooManyChunks hdim hlen hmany, raise_first he _ _⟩,
    fun s hp _ hdim hlen hroom => ?room, fun s hw hh hpix => ?sample⟩
  case success =>
    rw [exec_job_success hdim hlen, jobEffect_eq, Wire.body_length]
  case room =>
    rw [← Wire.body_length s.width s.height] at hroom ⊢
    rw [Nat.add_comm, engineSteps_succ (engineStep_job hp hdim hlen)]
    refine engineSteps_jobEffect _ (s := { s with pending := none }) rfl ?_
    show s.outLevel + _ ≤ s.cfg.outCap
    omega
  case sample =>
    have hpack : Wire.pack s.pixbuf = [0x81, 0x53] := by rw [hpix]; decide
    refine ⟨_, exec_job_success (by rw [hw, hh, hpack]; decide) (by rw [hpack]; decide), ?_⟩
    rw [jobEffect_emit, hw, hh, hpack]
    decide

end Sys2Proof.Proofs
end

/-! ## Proofs of the exceptions family: the error action, the first error and the error state -/

section
/-! The error action (spec/60_exceptions.md R252) and what each kind of step does to ERR, ERRCODE and ERROP (R253, R255, R260). -/

namespace Sys2Proof.Machine

/-! ### The error action -/

/-- The error action in the error state: the first error stays (R252, R253). -/
theorem raise_in_error {s : State} (he : s.err = true) (e : ErrorKind) (op : Byte) :
    s.raise e op = { s with done := false, pending := none, emit := [] } := by
  simp [State.raise, he]

/-- The error action with no command to end changes only STATUS (R255). -/
theorem raise_of_idle {s : State} (hb : s.busy = false) (e : ErrorKind) (op : Byte) :
    s.raise e op = { s with
      err := true, errcode := (s.raise e op).errcode, errop := (s.raise e op).errop, done := false } := by
  obtain ⟨hp, hem⟩ := (busy_false_iff s).1 hb
  simp [State.raise, hp, hem]

/-! ### What a step does to the recorded error -/

/-- ERR, ERRCODE and ERROP are the same in both states. -/
def SameError (s t : State) : Prop := t.err = s.err ∧ t.errcode = s.errcode ∧ t.errop = s.errop

theorem raise_sameError {s : State} (he : s.err = true) (e : ErrorKind) (op : Byte) : SameError s (s.raise e op) := by
  rw [raise_in_error he]
  exact ⟨rfl, rfl, rfl⟩

theorem emissionOf_sameError (b : Block) (s : State) : SameError s (s.emissionOf b) := by
  rcases emissionOf_cases b s with ⟨_, _, _, _, h⟩ | h <;> rw [h] <;> exact ⟨rfl, rfl, rfl⟩

/-- An instruction keeps the recorded error, or is CLEAR, or has done the error action and nothing else. -/
theorem exec_error_cases {i : Instr} {s t : State} (hx : exec i s = .next t) :
    SameError s t ∨ i = .clear ∨ ∃ e op, t = s.raise e op := by
  cases i
  case clear => exact .inr (.inl rfl)
  case illegal r o =>
    cases (exec_illegal r o s).symm.trans hx
    exact .inr (.inr ⟨_, _, rfl⟩)
  case build =>
    rcases execBuild_cases s with ⟨_, _, hb⟩ | ⟨_, _, hb⟩ | ⟨_, hb⟩ <;> cases hx.symm.trans hb
    case inl => exact .inl (by simp [SameError])
    all_goals exact .inr (.inr ⟨_, _, rfl⟩)
  case frame =>
    rcases execFrame_cases s with ⟨_, hf⟩ | ⟨_, hf⟩ <;> cases hx.symm.trans hf
    case inl => exact .inl (by simp [SameError])
    case inr => exact .inr (.inr ⟨_, _, rfl⟩)
  case job =>
    rcases execJob_cases s with ⟨_, _, _, hj⟩ | ⟨_, _, _, hj⟩ | ⟨_, _, hj⟩ | ⟨_, hj⟩ <;> cases hx.symm.trans hj
    case inl => exact .inl (by simp [SameError])
    all_goals exact .inr (.inr ⟨_, _, rfl⟩)
  case wireHeader | wireChunk | wireChunkLast =>
    cases hx
    exact .inl (emissionOf_sameError _ s)
  all_goals
    cases hx
    exact .inl ⟨rfl, rfl, rfl⟩

/-- A write of the window keeps the recorded error, or is a pixel too many. -/
theorem memWrite_error_cases {s t : State} {off : Nat} {v : Word} (hm : memWrite off v s = .next t) :
    SameError s t ∨ (s.busy = false ∧ t = s.raise .pixelOverflow 0xFF) := by
  rcases memWrite_next_cases hm with rfl | ⟨_, rfl, _⟩ | ⟨_, _, rfl⟩ | ⟨_, _, rfl⟩ | ⟨_, _, rfl⟩ | ⟨_, _, _, rfl⟩ |
    ⟨hb, _, _, rfl⟩ | ⟨_, _, _, _, rfl⟩
  case inr.inr.inr.inr.inr.inr.inl => exact .inr ⟨hb, rfl⟩
  all_goals exact .inl ⟨rfl, rfl, rfl⟩

theorem decodeCmd_eq_clear_iff (w : Word) : decodeCmd w = .clear ↔ w = 1 := by
  refine ⟨fun h => ?_, fun h => h ▸ rfl⟩
  rcases decodeCmd_cases w with ⟨_, hd⟩ | ⟨hw, _⟩ | ⟨_, hd⟩ | ⟨_, hd⟩ | ⟨_, hd⟩ | ⟨_, hd⟩ | ⟨_, hd⟩ | ⟨_, _, hd⟩
  case inr.inl => exact hw
  all_goals exact absurd (hd.symm.trans h) (by simp)

/-- A step in the error state that does not clear keeps the first error (R253). -/
theorem step_sameError {s t : State} (hs : step s = .next t) (he : s.err = true) (hc : ¬ s.clears) : SameError s t := by
  rcases step_kind_cases hs with ⟨w, hw, hx⟩ | ⟨b, rest, _, _, rfl⟩ | ⟨off, v, rest, _, hm⟩ | ⟨_, hr, _⟩ | ⟨_, ht⟩
  · rcases exec_error_cases hx with hsame | hclear | ⟨e, op, rfl⟩
    · exact hsame
    · exact absurd (.inl ((decodeCmd_eq_clear_iff w).1 hclear ▸ hw)) hc
    · exact raise_sameError (s := { s.spendTurn with pending := none }) he e op
  · exact ⟨rfl, rfl, rfl⟩
  · rcases memWrite_error_cases hm with hsame | ⟨_, rfl⟩
    · exact hsame
    · exact raise_sameError (s := s.spendTurn.goOn rest) he _ _
  · exact absurd (.inr hr) hc
  · rw [ht]
    exact ⟨rfl, rfl, rfl⟩

/-- CLEAR's execute step and the reset input do the same to the PEE (R223, R290). -/
theorem step_of_clears {s t : State} (hs : step s = .next t) (hc : s.clears) :
    ∃ next, t = (s.spendTurn.goOn next).clear := by
  rcases hc with hx | hr
  · cases ((step_of_executes hx).trans (exec_clear _)).symm.trans hs
    exact ⟨s.prog, rfl⟩
  · obtain ⟨hx, he, hd⟩ := resets_excludes hr
    rcases step_kind_cases hs with ⟨w, hw, _⟩ | ⟨b, _, hb, _⟩ | ⟨_, _, _, hw, _⟩ | ⟨next, _, ht⟩ | ⟨⟨_, _, _, hr'⟩, _⟩
    · exact absurd hw (hx w)
    · exact absurd hb (he b)
    · exact absurd hw (hd _ (by simp))
    · exact ⟨next, ht⟩
    · exact absurd hr hr'

/-- In the error state only CLEAR can be executed (R254). -/
theorem State.Inv.executes_in_error {s : State} {w : Word} (h : s.Inv) (he : s.err = true) (hw : s.executes w) : w = 1 :=
  have ⟨_, _, hclear⟩ := h.of_pending hw.2
  hclear he

end Sys2Proof.Machine

namespace Sys2Proof.Proofs

open Sys2Proof.Machine

/-- Settles O35: the error action without and with an error before it. -/
theorem errorAction : Obligations.ErrorAction :=
  fun _ e op => ⟨fun he => raise_first he e op, fun he => raise_in_error he e op⟩

/-- Settles O36, from what a step does to the recorded error; the invariant leaves only CLEAR to execute. -/
theorem firstErrorSticks : Obligations.FirstErrorSticks := by
  refine ⟨fun s t hs he hc => ?kept, fun s t hs hc => ?cleared, fun s h he w => h.executes_in_error he⟩
  case kept =>
    obtain ⟨herr, hcode, hop⟩ := step_sameError hs he hc
    exact ⟨herr.trans he, hcode, hop⟩
  case cleared =>
    obtain ⟨_, rfl⟩ := step_of_clears hs hc
    exact ⟨rfl, rfl, rfl⟩

/-- Settles O37: what takes ERR from 0 to 1 is the error action, on an idle PEE. -/
theorem errorsAreAllOrNothing : Obligations.ErrorsAreAllOrNothing := by
  refine ⟨fun i s t hp hem he hx ht => ?_, fun s t v he hm ht => ?_⟩
  · rcases exec_error_cases hx with ⟨hsame, _⟩ | rfl | ⟨e, op, rfl⟩
    · simp [hsame, he] at ht
    · cases (exec_clear s).symm.trans hx
      cases ht
    · exact raise_of_idle ((busy_false_iff s).2 ⟨hp, hem⟩) e op
  · rcases memWrite_error_cases hm with ⟨hsame, _⟩ | ⟨hb, rfl⟩
    · simp [hsame, he] at ht
    · refine ⟨rfl, (raise_of_idle hb _ _).trans ?_⟩
      simp [he, ErrorKind.code]

/-- Settles O39: a step that does not clear keeps ERR, and one that does gives the reset table. -/
theorem errorStateLeftOnlyByClearOrReset : Obligations.ErrorStateLeftOnlyByClearOrReset := by
  intro s t hs he
  by_cases hc : s.clears
  · obtain ⟨_, rfl⟩ := step_of_clears hs hc
    exact ⟨iff_of_true rfl hc, fun _ => clear_atReset _⟩
  · have herr : ¬ t.err = false := by simp [(step_sameError hs he hc).1, he]
    exact ⟨iff_of_false herr hc, fun ht => absurd ht herr⟩

/-- Settles O40, from the error action in the error state and the one word the invariant leaves to execute. -/
theorem nestedErrorChangesOnlyDone : Obligations.NestedErrorChangesOnlyDone := by
  refine ⟨fun s v he hb hfull => ?_, fun s e op he hb => raise_again he hb e op,
    fun s h he w hw => (decodeCmd_eq_clear_iff w).2 (h.executes_in_error he hw)⟩
  rw [memWrite_pixin_full v hb hfull.ge, raise_again he hb]

end Sys2Proof.Proofs
end

section
/-! The order of the causes at an execute step (spec/60_exceptions.md R256): which error a command reports, and what holds when
it reports none. -/

namespace Sys2Proof.Machine

/-- The word is a BUILD or a JOB whose dimension check fails (R142, R143, R224). -/
def State.mismatches (s : State) (w : Word) : Prop :=
  (w = 3 ∧ s.width.toNat * s.height.toNat ≠ 8 * s.bmpbuf.length) ∨
  (w = 6 ∧ s.width.toNat * s.height.toNat ≠ 8 * ((s.pixbuf.length + 7) / 8))

/-- The word is a BUILD or a JOB whose body does not fit the length field (R142, R144, R224). -/
def State.bodyTooLong (s : State) (w : Word) : Prop :=
  (w = 3 ∧ 2 ^ 32 - 1 < 24 + s.bmpbuf.length) ∨ (w = 6 ∧ 2 ^ 32 - 1 < 24 + (s.pixbuf.length + 7) / 8)

/-- The kind an execute step of w reports: the first cause that holds, in the order of R256. -/
def State.firstCause (s : State) (w : Word) (e : ErrorKind) : Prop :=
  (6 < w.toNat ∧ e = .illegalCommand) ∨
  (¬ 6 < w.toNat ∧ s.mismatches w ∧ e = .dimensionMismatch) ∨
  (¬ 6 < w.toNat ∧ ¬ s.mismatches w ∧ s.bodyTooLong w ∧ e = .lengthOverflow) ∨
  (¬ 6 < w.toNat ∧ ¬ s.mismatches w ∧ ¬ s.bodyTooLong w ∧ e = .tooManyChunks)

theorem mismatches_build (s : State) : s.mismatches 3 ↔ dimOK s.width s.height s.bmpbuf.length = false := by
  rw [← Bool.not_eq_true, dimOK_iff]
  simp [State.mismatches]

theorem mismatches_job (s : State) : s.mismatches 6 ↔ dimOK s.width s.height (Wire.pack s.pixbuf).length = false := by
  rw [← Bool.not_eq_true, dimOK_pack_iff]
  simp [State.mismatches]

theorem bodyTooLong_build (s : State) : s.bodyTooLong 3 ↔ lenOK s.bmpbuf.length = false := by
  rw [← Bool.not_eq_true, lenOK_iff]
  simp [State.bodyTooLong]

theorem bodyTooLong_job (s : State) : s.bodyTooLong 6 ↔ lenOK (Wire.pack s.pixbuf).length = false := by
  rw [← Bool.not_eq_true, lenOK_iff, Wire.pack_length]
  simp [State.bodyTooLong]

/-- An execute step that records an error has done the error action for the first cause, with the word's bits 7:0. -/
theorem execCmd_raises_firstCause {s t : State} {w : Word} (hx : exec (decodeCmd w) s = .next t) (he : s.err = false)
    (ht : t.err = true) : ∃ e, t = s.raise e (opcodeOf w) ∧ s.firstCause w e := by
  rcases execCmd_cases hx with ⟨_, rfl⟩ | ⟨_, rfl⟩ | ⟨_, rfl⟩ | ⟨_, _, _, rfl⟩ | ⟨_, rfl⟩ | ⟨_, _, rfl⟩ |
    ⟨_, _, _, _, rfl⟩ | ⟨e, rfl, hcause⟩
  case inr.inr.inr.inr.inr.inr.inr =>
    refine ⟨e, rfl, ?_⟩
    rcases hcause with ⟨rfl, ⟨hdim, rfl⟩ | ⟨hdim, hlen, rfl⟩⟩ | ⟨rfl, _, rfl⟩ |
      ⟨rfl, ⟨hdim, rfl⟩ | ⟨hdim, hlen, rfl⟩ | ⟨hdim, hlen, _, rfl⟩⟩ | ⟨hw, _, rfl⟩
    · exact .inr (.inl ⟨by decide, (mismatches_build s).2 hdim, rfl⟩)
    · exact .inr (.inr (.inl ⟨by decide, by rw [mismatches_build, hdim]; decide, (bodyTooLong_build s).2 hlen, rfl⟩))
    · exact .inr (.inr (.inr ⟨by decide, by simp [State.mismatches], by simp [State.bodyTooLong], rfl⟩))
    · exact .inr (.inl ⟨by decide, (mismatches_job s).2 hdim, rfl⟩)
    · exact .inr (.inr (.inl ⟨by decide, by rw [mismatches_job, hdim]; decide, (bodyTooLong_job s).2 hlen, rfl⟩))
    · exact .inr (.inr (.inr ⟨by decide, by rw [mismatches_job, hdim]; decide, by rw [bodyTooLong_job, hlen]; decide, rfl⟩))
    · exact .inl ⟨hw, rfl⟩
  all_goals simp [he] at ht

/-! ### What holds when no error is recorded -/

theorem exec_build_checks {s t : State} (hx : exec .build s = .next t) (ht : t.err = false) :
    s.width.toNat * s.height.toNat = 8 * s.bmpbuf.length ∧ 24 + s.bmpbuf.length ≤ 2 ^ 32 - 1 := by
  rcases execBuild_cases s with ⟨hdim, hlen, _⟩ | ⟨_, _, hb⟩ | ⟨_, hb⟩
  case inl => exact ⟨(dimOK_iff _ _ _).1 hdim, (lenOK_iff _).1 hlen⟩
  all_goals
    cases hx.symm.trans hb
    cases ht

theorem exec_frame_checks {s t : State} (hx : exec .frame s = .next t) (ht : t.err = false) :
    s.bodybuf.length ≤ 128000 := by
  by_contra hB
  cases hx.symm.trans (exec_frame_tooManyChunks (Nat.not_le.1 hB))
  cases ht

theorem exec_job_checks {s t : State} (hx : exec .job s = .next t) (ht : t.err = false) :
    s.width.toNat * s.height.toNat = 8 * ((s.pixbuf.length + 7) / 8) ∧ 24 + (s.pixbuf.length + 7) / 8 ≤ 128000 := by
  rcases execJob_cases s with ⟨hdim, _, hframe, _⟩ | ⟨_, _, _, hj⟩ | ⟨_, _, hj⟩ | ⟨_, hj⟩
  case inl =>
    rw [framable_iff_le, Wire.body_length, Wire.pack_length] at hframe
    exact ⟨(dimOK_pack_iff _ _ _).1 hdim, hframe⟩
  all_goals
    cases hx.symm.trans hj
    cases ht

theorem execCmd_legal {s t : State} {w : Word} (hx : exec (decodeCmd w) s = .next t) (ht : t.err = false) :
    w.toNat ≤ 6 := by
  by_contra hw
  rw [decodeCmd_of_gt (Nat.not_le.1 hw), exec_illegal] at hx
  cases hx
  cases ht

end Sys2Proof.Machine

namespace Sys2Proof.Proofs

open Sys2Proof.Machine

/-- Settles O38: the error recorded is the first cause's, and each command that records none has passed its checks. -/
theorem errorPriority : Obligations.ErrorPriority := by
  intro s w he hp
  obtain ⟨t, hx⟩ := exec_answers_next (decodeCmd w) { s with pending := none }
  refine ⟨t, (engineStep_of_pending hp).trans hx, fun ht => ?reported, fun ht => ?none⟩
  case reported =>
    obtain ⟨e, rfl, hcause⟩ := execCmd_raises_firstCause hx he ht
    rw [raise_first (s := { s with pending := none }) he]
    refine ⟨rfl, ?_⟩
    rcases hcause with ⟨hw, rfl⟩ | ⟨hw, hdim, rfl⟩ | ⟨hw, hdim, hlen, rfl⟩ | ⟨hw, hdim, hlen, rfl⟩ <;>
      rw [← illegalFields_iff] at hw
    · exact (if_pos hw).symm
    · exact ((if_neg hw).trans (if_pos hdim)).symm
    · exact ((if_neg hw).trans ((if_neg hdim).trans (if_pos hlen))).symm
    · exact ((if_neg hw).trans ((if_neg hdim).trans (if_neg hlen))).symm
  case none =>
    refine ⟨(legalFields_iff w).2 (execCmd_legal hx ht), ?_, ?_, ?_⟩ <;> rintro rfl
    · exact exec_build_checks (s := { s with pending := none }) hx ht
    · exact exec_frame_checks (s := { s with pending := none }) hx ht
    · exact exec_job_checks (s := { s with pending := none }) hx ht

end Sys2Proof.Proofs
end

/-! ## Proofs of the other family: the codec, the frames of the commands and the steps, the output stream, whole runs -/

section
/-! Decoding undoes encoding (spec/30_encoding.md R90..R103), in every place an encoding may stand. -/

namespace Sys2Proof

open Machine

/-! ### Command words -/

theorem rsvdOf_append (r : BitVec 24) (o : Byte) : rsvdOf (r ++ o) = r := by
  apply BitVec.eq_of_toNat_eq
  have := r.isLt
  have := o.isLt
  rw [rsvdOf, BitVec.extractLsb'_toNat, BitVec.toNat_append, ← Nat.shiftLeft_add_eq_or_of_lt this,
    Nat.shiftRight_eq_div_pow, Nat.shiftLeft_eq]
  omega

theorem opcodeOf_append (r : BitVec 24) (o : Byte) : opcodeOf (r ++ o) = o := by
  apply BitVec.eq_of_toNat_eq
  have := o.isLt
  rw [opcodeOf, BitVec.extractLsb'_toNat, BitVec.toNat_append, ← Nat.shiftLeft_add_eq_or_of_lt this,
    Nat.shiftRight_eq_div_pow, Nat.shiftLeft_eq]
  omega

theorem append_rsvdOf_opcodeOf (w : Word) : rsvdOf w ++ opcodeOf w = w := by
  apply BitVec.eq_of_toNat_eq
  rw [BitVec.toNat_append, ← Nat.shiftLeft_add_eq_or_of_lt (opcodeOf w).isLt, Nat.shiftLeft_eq, word_of_fields w]

theorem wellFormed_illegal (r : BitVec 24) (o : Byte) :
    (Instr.illegal r o).wellFormed = true ↔ r ≠ 0 ∨ 6 < o.toNat := by
  simp [Instr.wellFormed]

/-- An illegal word is no legal one, so its fields come back (R92). -/
theorem decodeCmd_append {r : BitVec 24} {o : Byte} (h : (Instr.illegal r o).wellFormed = true) :
    decodeCmd (r ++ o) = .illegal r o := by
  have hw := word_of_fields (r ++ o)
  rw [rsvdOf_append, opcodeOf_append] at hw
  have hgt : 6 < (r ++ o).toNat := by
    rcases (wellFormed_illegal r o).1 h with hr | ho
    · have : r.toNat ≠ 0 := fun h0 => hr (BitVec.eq_of_toNat_eq h0)
      omega
    · omega
  rw [decodeCmd_of_gt hgt, rsvdOf_append, opcodeOf_append]

/-- The four bytes of a word are read as the word (R65, R68). -/
theorem decodeCmdBytes_le32 (v : Word) (rest : List Byte) :
    decodeCmdBytes (Wire.le32 v ++ rest) = .ok (decodeCmd v, rest) := by
  show Except.ok (decodeCmd (Wire.ofLe32 _ _ _ _), rest) = _
  rw [Wire.ofLe32_le32]

/-! ### Headers and command blocks -/

theorem decodeHeader_header (L : Word) (rest : List Byte) :
    decodeHeader (Wire.header L ++ rest) = .ok (.wireHeader L, rest) := by
  have hbytes : Wire.header L ++ rest = 0xFF :: 0xF0 :: 0x12 :: 0x34 :: L.extractLsb' 0 8 :: L.extractLsb' 8 8 ::
      L.extractLsb' 16 8 :: L.extractLsb' 24 8 :: Wire.checksum L :: rest := rfl
  rw [hbytes, decodeHeader, Wire.ofLe32_le32, if_pos rfl]
  exact if_pos rfl

/-- A bitmap is read back by its area (R103, R143, R144). -/
theorem decodeBitmap_append {w h : Word} {bm : List Byte} (hdim : dimOK w h bm.length = true)
    (hlen : lenOK bm.length = true) (rest : List Byte) :
    decodeBitmap w h (bm ++ rest) = .ok (.wirePrintData w h bm, rest) := by
  have harea : w.toNat * h.toNat = 8 * bm.length := (dimOK_iff w h _).1 hdim
  have hbytes : w.toNat * h.toNat / 8 = bm.length := by omega
  rw [decodeBitmap, hbytes, if_pos (by omega), if_pos hlen, if_pos (by simp), List.take_left, List.drop_left]

theorem decodeCommand_printData {w h : Word} {bm : List Byte} (hdim : dimOK w h bm.length = true)
    (hlen : lenOK bm.length = true) (rest : List Byte) :
    decodeCommand (Wire.printData w h bm ++ rest) = .ok (.wirePrintData w h bm, rest) := by
  show decodeBitmap (Wire.ofLe32 _ _ _ _) (Wire.ofLe32 _ _ _ _) (bm ++ rest) = _
  rw [Wire.ofLe32_le32, Wire.ofLe32_le32, decodeBitmap_append hdim hlen]

/-! ### Chunks -/

theorem decodeFullChunk_append (i : Byte) {p : List Byte} (hp : p.length = 500) (rest : List Byte) :
    decodeFullChunk i (p ++ rest) = .ok (.wireChunk i p, rest) := by
  rw [decodeFullChunk, Wire.chunkSize, if_pos (by simp [hp]), List.take_left' hp, List.drop_left' hp]

theorem decodeLastChunk_append (i : Byte) (p rest : List Byte) :
    decodeLastChunk i p.length (p ++ Wire.trailer ++ rest) = .ok (.wireChunkLast i p, rest) := by
  have htrailer : ((p ++ Wire.trailer ++ rest).drop p.length).take 2 = Wire.trailer := Wire.take_drop_append rfl rfl
  have hlen : (p ++ Wire.trailer).length = p.length + 2 := List.length_append
  rw [decodeLastChunk, if_pos (by rw [List.length_append]; omega), if_pos htrailer, List.drop_left' hlen,
    List.append_assoc, List.take_left]

/-- The index of a last chunk is its body's last index (R191, R192). -/
theorem nchunks_of_chunkLast {i : Byte} {p : List Byte} (h : (Instr.wireChunkLast i p).wellFormed = true) :
    Wire.nchunks (i.toNat * 500 + p.length) = i.toNat + 1 := by
  obtain ⟨hle, hne⟩ := (wellFormed_wireChunkLast i p).1 h
  rw [Wire.nchunks_eq]
  rcases hne with hne | rfl
  · have := List.length_pos_iff.2 hne
    rw [if_neg (by omega)]
    omega
  · have hzero : (0 : Byte).toNat = 0 := rfl
    split <;> omega

theorem decodeChunk_chunk {L : Nat} {i : Byte} {p : List Byte} (h : (Instr.wireChunk i p).wellFormed = true)
    (hs : (Instr.wireChunk i p).standsIn (.chunk L) = true) (rest : List Byte) :
    decodeChunk L (i :: p ++ rest) = .ok (.wireChunk i p, rest) := by
  obtain ⟨hframable, hi⟩ := Bool.and_eq_true_iff.1 hs
  obtain ⟨hlen, _⟩ := (wellFormed_wireChunk i p).1 h
  rw [List.cons_append, decodeChunk, if_pos hframable, if_pos (of_decide_eq_true hi), decodeFullChunk_append i hlen]

theorem decodeChunk_chunkLast {i : Byte} {p : List Byte} (h : (Instr.wireChunkLast i p).wellFormed = true)
    (rest : List Byte) :
    decodeChunk (i.toNat * 500 + p.length) (i :: p ++ Wire.trailer ++ rest) = .ok (.wireChunkLast i p, rest) := by
  have hn := nchunks_of_chunkLast h
  have hi := i.isLt
  have hframable : framable (i.toNat * 500 + p.length) = true := (framable_iff _).2 (by omega)
  rw [List.cons_append, List.cons_append, decodeChunk, if_pos hframable, hn, if_neg (lt_irrefl _), if_pos rfl,
    Wire.chunkSize, Nat.add_sub_cancel_left, decodeLastChunk_append]

/-! ### Every row -/

/-- Decoding undoes encoding, in every place the encoding may stand and whatever follows it. -/
theorem decode_encode {i : Instr} {f : Format} (h : i.wellFormed = true) (hs : i.standsIn f = true)
    (rest : List Byte) : decode f (encode i ++ rest) = .ok (i, rest) := by
  cases i
  case wireChunk index payload =>
    cases f
    case chunk L => exact decodeChunk_chunk h hs rest
    all_goals cases hs
  case wireChunkLast index payload =>
    obtain rfl := beq_iff_eq.1 hs
    exact decodeChunk_chunkLast h rest
  all_goals obtain rfl := beq_iff_eq.1 hs
  case illegal r o => exact (decodeCmdBytes_le32 _ rest).trans (by rw [decodeCmd_append h])
  case wireHeader L => exact decodeHeader_header L rest
  case wirePrintData w ht bm =>
    obtain ⟨hdim, hlen⟩ := Bool.and_eq_true_iff.1 h
    exact decodeCommand_printData hdim hlen rest
  case wireStartJob | wireFormFeed | wireStatus | wireEnd => rfl
  all_goals exact decodeCmdBytes_le32 _ rest

/-- Command blocks one after another are read back one after another (R100, R103). -/
theorem decodeCommands_encode {is : List Instr} (h : ∀ i ∈ is, i.wellFormed = true ∧ i.standsIn .command = true)
    (rest : List Byte) : decodeCommands is.length (is.flatMap encode ++ rest) = .ok (is, rest) := by
  induction is with
  | nil => rfl
  | cons i is ih =>
    obtain ⟨⟨hwf, hs⟩, his⟩ := List.forall_mem_cons.1 h
    have hhead : decodeCommand (encode i ++ (is.flatMap encode ++ rest)) = .ok (i, is.flatMap encode ++ rest) :=
      decode_encode hwf hs _
    rw [List.flatMap_cons, List.append_assoc, List.length_cons, decodeCommands, hhead]
    simp only [ih his]

/-! ### What is decoded is an encoding -/

/-- The bytes are the encoding of a well-formed instruction that may stand in the place f, and then rest. -/
def BeginsWith (f : Format) (bs : List Byte) (i : Instr) (rest : List Byte) : Prop :=
  i.wellFormed = true ∧ i.standsIn f = true ∧ encode i ++ rest = bs

/-- Every word is the encoding of the instruction it decodes to (R90..R92). -/
theorem decodeCmd_beginsWith (w : Word) (rest : List Byte) :
    BeginsWith .cmd (Wire.le32 w ++ rest) (decodeCmd w) rest := by
  rcases decodeCmd_cases w with ⟨rfl, hd⟩ | ⟨rfl, hd⟩ | ⟨rfl, hd⟩ | ⟨rfl, hd⟩ | ⟨rfl, hd⟩ | ⟨rfl, hd⟩ | ⟨rfl, hd⟩ |
    ⟨_, hfields, hd⟩ <;> rw [hd]
  case inr.inr.inr.inr.inr.inr.inr =>
    exact ⟨(wellFormed_illegal _ _).2 hfields, rfl, by rw [encode, append_rsvdOf_opcodeOf]⟩
  all_goals exact ⟨rfl, rfl, rfl⟩

theorem decodeCmdBytes_beginsWith {bs rest : List Byte} {i : Instr} (h : decodeCmdBytes bs = .ok (i, rest)) :
    BeginsWith .cmd bs i rest := by
  unfold decodeCmdBytes at h
  split at h
  next b0 b1 b2 b3 after =>
    cases h
    have hw := decodeCmd_beginsWith (Wire.ofLe32 b0 b1 b2 b3) rest
    rwa [Wire.le32_ofLe32] at hw
  · cases h

theorem decodeHeader_beginsWith {bs rest : List Byte} {i : Instr} (h : decodeHeader bs = .ok (i, rest)) :
    BeginsWith .jobHeader bs i rest := by
  unfold decodeHeader at h
  split at h
  · split_ifs at h with hprefix hsum
    cases h
    refine ⟨rfl, rfl, ?_⟩
    rw [encode, Wire.header, Wire.le32_ofLe32, ← hprefix, ← hsum]
    rfl
  · cases h

theorem decodeBitmap_ok {w h : Word} {bs rest : List Byte} {i : Instr} (hd : decodeBitmap w h bs = .ok (i, rest)) :
    ∃ bm, i = .wirePrintData w h bm ∧ i.wellFormed = true ∧ bm ++ rest = bs := by
  unfold decodeBitmap at hd
  split_ifs at hd with harea hlen hbytes
  cases hd
  refine ⟨_, rfl, Bool.and_eq_true_iff.2 ⟨(dimOK_iff _ _ _).2 ?_, ?_⟩, List.take_append_drop _ _⟩
  · rw [List.length_take_of_le hbytes]
    omega
  · rwa [List.length_take_of_le hbytes]

theorem decodePrintData_beginsWith {bs rest : List Byte} {i : Instr} (h : decodePrintData bs = .ok (i, rest)) :
    BeginsWith .command (0x1B :: 0x44 :: bs) i rest := by
  unfold decodePrintData at h
  split at h
  · split_ifs at h with hconst
    obtain ⟨bm, rfl, hwf, rfl⟩ := decodeBitmap_ok h
    refine ⟨hwf, rfl, ?_⟩
    simp only [List.cons.injEq, and_true] at hconst
    obtain ⟨rfl, rfl⟩ := hconst
    rw [encode, Wire.printData, Wire.le32_ofLe32, Wire.le32_ofLe32]
    rfl
  · cases h

theorem decodeStartJob_beginsWith {bs rest : List Byte} {i : Instr} (h : decodeStartJob bs = .ok (i, rest)) :
    BeginsWith .command (0x1B :: 0x73 :: bs) i rest := by
  unfold decodeStartJob at h
  split at h
  · split_ifs at h with hconst
    cases h
    simp only [List.cons.injEq, and_true] at hconst
    obtain ⟨rfl, rfl, rfl, rfl⟩ := hconst
    exact ⟨rfl, rfl, rfl⟩
  · cases h

theorem decodeCommand_beginsWith {bs rest : List Byte} {i : Instr} (h : decodeCommand bs = .ok (i, rest)) :
    BeginsWith .command bs i rest := by
  unfold decodeCommand at h
  split at h
  · split_ifs at h with hescape hstart hprint hfeed hstatus hend <;> subst_vars
    · exact decodeStartJob_beginsWith h
    · exact decodePrintData_beginsWith h
    all_goals
      cases h
      exact ⟨rfl, rfl, rfl⟩
  · cases h

theorem decodeFullChunk_ok {index : Byte} {bs rest : List Byte} {i : Instr}
    (h : decodeFullChunk index bs = .ok (i, rest)) :
    ∃ p, i = .wireChunk index p ∧ p.length = 500 ∧ p ++ rest = bs := by
  unfold decodeFullChunk at h
  split_ifs at h with hbytes
  cases h
  exact ⟨_, rfl, List.length_take_of_le hbytes, List.take_append_drop _ _⟩

theorem decodeLastChunk_ok {index : Byte} {n : Nat} {bs rest : List Byte} {i : Instr}
    (h : decodeLastChunk index n bs = .ok (i, rest)) :
    ∃ p, i = .wireChunkLast index p ∧ p.length = n ∧ p ++ Wire.trailer ++ rest = bs := by
  unfold decodeLastChunk at h
  split_ifs at h with hbytes htrailer
  cases h
  refine ⟨_, rfl, List.length_take_of_le (by omega), ?_⟩
  rw [← htrailer, ← List.drop_drop, List.append_assoc, List.take_append_drop, List.take_append_drop]

theorem decodeChunk_beginsWith {L : Nat} {bs rest : List Byte} {i : Instr} (h : decodeChunk L bs = .ok (i, rest)) :
    BeginsWith (.chunk L) bs i rest := by
  unfold decodeChunk at h
  split at h
  next index bs =>
    split_ifs at h with hframable hmore hlast
    · obtain ⟨p, rfl, hp, rfl⟩ := decodeFullChunk_ok h
      have hmax := (framable_iff L).1 hframable
      exact ⟨(wellFormed_wireChunk index p).2 ⟨hp, by omega⟩, Bool.and_eq_true_iff.2 ⟨hframable, decide_eq_true hmore⟩, rfl⟩
    · obtain ⟨p, rfl, hp, rfl⟩ := decodeLastChunk_ok h
      have hstart := Wire.nchunks_pred_mul_le L
      have hreach := Wire.length_le_nchunks_mul L
      rw [← hlast, Nat.add_sub_cancel] at hstart
      rw [← hlast] at hreach
      rw [Wire.chunkSize] at hp
      refine ⟨(wellFormed_wireChunkLast index p).2 ⟨by omega, ?_⟩, beq_iff_eq.2 (congrArg Format.chunk ?_), rfl⟩
      · by_contra hno
        obtain ⟨hnil, hindex⟩ := not_or.1 hno
        have hpos : index.toNat ≠ 0 := fun h0 => hindex (BitVec.eq_of_toNat_eq h0)
        have hbelow := Wire.nchunks_pred_mul_lt (L := L) (by omega)
        rw [← hlast, Nat.add_sub_cancel] at hbelow
        rw [not_not.1 hnil, List.length_nil] at hp
        omega
      · rw [Wire.chunkSize]
        omega
  next => cases h

/-- Whatever the place, what the decoder reads encodes to the bytes it read. -/
theorem decode_beginsWith {f : Format} {bs rest : List Byte} {i : Instr} (h : decode f bs = .ok (i, rest)) :
    BeginsWith f bs i rest := by
  cases f with
  | cmd => exact decodeCmdBytes_beginsWith h
  | jobHeader => exact decodeHeader_beginsWith h
  | command => exact decodeCommand_beginsWith h
  | chunk L => exact decodeChunk_beginsWith h

/-! ### What a JOB emits, as encodings -/

/-- Chunk i of a body of framable length, as the instruction a receiver reads (R101, R195). -/
def chunkInstr (B : List Byte) (i : Nat) : Instr :=
  if i + 1 = Wire.nchunks B.length then .wireChunkLast (BitVec.ofNat 8 i) (Wire.payload B i)
  else .wireChunk (BitVec.ofNat 8 i) (Wire.payload B i)

theorem encode_chunkInstr (B : List Byte) (i : Nat) : encode (chunkInstr B i) = Wire.chunk B i := by
  unfold chunkInstr Wire.chunk
  split
  · rfl
  · exact (List.append_nil _).symm

theorem index_toNat {i : Nat} (hi : i < 256) : (BitVec.ofNat 8 i).toNat = i :=
  Nat.mod_eq_of_lt hi

theorem chunkInstr_stands {B : List Byte} {i : Nat} (hB : B.length ≤ 128000) (hi : i < Wire.nchunks B.length) :
    (chunkInstr B i).wellFormed = true ∧ (chunkInstr B i).standsIn (.chunk B.length) = true := by
  have hmax := Wire.nchunks_le_maxChunks hB
  have hindex := index_toNat (i := i) (by omega)
  have hp := Wire.payload_length B i
  have hreach := Wire.length_le_nchunks_mul B.length
  have hstart := Wire.nchunks_pred_mul_le B.length
  unfold chunkInstr
  split
  next hlast =>
    rw [← hlast] at hreach hstart
    refine ⟨(wellFormed_wireChunkLast _ _).2 ⟨by omega, ?_⟩, beq_iff_eq.2 (congrArg Format.chunk ?_)⟩
    · rcases Nat.eq_zero_or_pos i with rfl | hpos
      · exact .inr rfl
      · have hbelow := Wire.nchunks_pred_mul_lt (L := B.length) (by omega)
        rw [← hlast] at hbelow
        exact .inl (List.length_pos_iff.1 (by omega))
    · rw [hindex, Wire.chunkSize]
      omega
  next hmore =>
    have hbefore : i + 1 ≤ Wire.nchunks B.length - 1 := by omega
    have hfull : (i + 1) * 500 ≤ B.length := (Nat.mul_le_mul_right 500 hbefore).trans hstart
    refine ⟨(wellFormed_wireChunk _ _).2 ⟨by omega, by omega⟩, Bool.and_eq_true_iff.2
      ⟨(framable_iff_le _).2 hB, decide_eq_true ?_⟩⟩
    rw [hindex]
    omega

theorem decode_chunk {B : List Byte} {i : Nat} (hB : B.length ≤ 128000) (hi : i < Wire.nchunks B.length) :
    decode (.chunk B.length) (Wire.chunk B i) = .ok (chunkInstr B i, []) := by
  obtain ⟨hwf, hs⟩ := chunkInstr_stands hB hi
  have hd := decode_encode hwf hs []
  rwa [encode_chunkInstr, List.append_nil] at hd

/-- The five command blocks of a JobBody, in its fixed order (R100, R138). -/
def bodyInstrs (w h : Word) (bm : List Byte) : List Instr :=
  [.wireStartJob, .wirePrintData w h bm, .wireFormFeed, .wireStatus, .wireEnd]

theorem encode_bodyInstrs (w h : Word) (bm : List Byte) : (bodyInstrs w h bm).flatMap encode = Wire.body w h bm := by
  simp only [bodyInstrs, List.flatMap_cons, List.flatMap_nil, encode, Wire.body, List.append_assoc, List.append_nil]

theorem decodeCommands_body {w h : Word} {bm : List Byte} (hdim : dimOK w h bm.length = true)
    (hlen : lenOK bm.length = true) : decodeCommands 5 (Wire.body w h bm) = .ok (bodyInstrs w h bm, []) := by
  have hstands : ∀ i ∈ bodyInstrs w h bm, i.wellFormed = true ∧ i.standsIn .command = true := by
    simp [bodyInstrs, Instr.standsIn, Instr.wellFormed, hdim, hlen]
  have hd := decodeCommands_encode hstands []
  rwa [encode_bodyInstrs, List.append_nil] at hd

theorem flatten_payloads (B : List Byte) : ((List.range (Wire.nchunks B.length)).map (Wire.payload B)).flatten = B := by
  rw [← List.flatMap_def, Wire.flatMap_payload]
  exact List.take_of_length_le (Wire.length_le_nchunks_mul _)

end Sys2Proof

namespace Sys2Proof.Proofs

open Sys2Proof.Machine

/-- Settles O3, row by row. -/
theorem decodeOfEncode : Obligations.DecodeOfEncode := fun _ _ rest h hs => decode_encode h hs rest

/-- Settles O4, decoder by decoder. -/
theorem decodedBytesAreTheEncoding : Obligations.DecodedBytesAreTheEncoding := fun _ _ _ _ => decode_beginsWith

/-- Settles O34: the header, each chunk and the body are encodings that stand where the receiver meets them. -/
theorem jobStreamReadBack : Obligations.JobStreamReadBack := by
  intro s t hx ht
  rcases execJob_cases s with ⟨hdim, hlen, hframable, hj⟩ | ⟨_, _, _, hj⟩ | ⟨_, _, hj⟩ | ⟨_, hj⟩ <;>
    cases hx.symm.trans hj
  case inl =>
    set B := Wire.body s.width s.height (Wire.pack s.pixbuf) with hBdef
    have hB : B.length ≤ 128000 := (framable_iff_le _).1 hframable
    have hL : (BitVec.ofNat 32 B.length).toNat = B.length := toNat_ofNat_word (by omega)
    refine ⟨Wire.header (BitVec.ofNat 32 B.length), Wire.chunks B, BitVec.ofNat 32 B.length,
      (List.range (Wire.nchunks B.length)).map (Wire.payload B), rfl, ?header, hL, ?count, ?chunks, fun i hi => ?chunk,
      flatten_payloads B, ?body⟩
    case header =>
      have hd := decode_encode (i := .wireHeader (BitVec.ofNat 32 B.length)) (f := .jobHeader) rfl rfl []
      rwa [List.append_nil] at hd
    case count => simp [Wire.chunks]
    case chunks => rw [hL, Wire.chunks_length]
    case chunk =>
      rw [Wire.chunks_length] at hi ⊢
      rw [hL, Wire.chunks_getD hi, decode_chunk hB hi, List.getD_eq_getElem _ _ (by simpa using hi), List.getElem_map,
        List.getElem_range, chunkInstr]
    case body =>
      rw [flatten_payloads]
      exact decodeCommands_body hdim hlen
  all_goals cases ht

/-- Settles O1: each word and each block is a closed term that the decoder computes on. -/
theorem commandWordsDecode : Obligations.CommandWordsDecode := by
  unfold Obligations.CommandWordsDecode
  decide

end Sys2Proof.Proofs
end

section
/-! What each instruction, each write of the window and each step leaves unchanged (spec/10_state.md, spec/20_memory.md), with the
invariant (R43) and what follows from it. -/

namespace Sys2Proof.Machine

open Sys2Proof.Claims

/-! ### The instructions -/

theorem emissionOf_frame (b : Block) (s : State) : SameHost s (s.emissionOf b) ∧
    (s.emissionOf b).width = s.width ∧ (s.emissionOf b).height = s.height ∧ (s.emissionOf b).pixbuf = s.pixbuf ∧
    (s.emissionOf b).ovr = s.ovr ∧ (s.emissionOf b).readPlace = s.readPlace := by
  rcases emissionOf_cases b s with ⟨_, _, _, _, h⟩ | h <;> rw [h] <;>
    exact ⟨⟨rfl, rfl, rfl, rfl, rfl⟩, rfl, rfl, rfl, rfl, rfl⟩

/-- The commands read their operands and write only what they compute (R255, R297). -/
theorem exec_frame {i : Instr} {s t : State} (hi : i ≠ .clear) (hx : exec i s = .next t) : SameHost s t ∧
    t.width = s.width ∧ t.height = s.height ∧ t.pixbuf = s.pixbuf ∧ t.ovr = s.ovr ∧ t.readPlace = s.readPlace := by
  cases i
  case clear => exact absurd rfl hi
  case wireHeader | wireChunk | wireChunkLast =>
    cases hx
    exact emissionOf_frame _ s
  case build =>
    rcases execBuild_cases s with ⟨_, _, h⟩ | ⟨_, _, h⟩ | ⟨_, h⟩ <;> cases hx.symm.trans h <;> simp [SameHost]
  case frame => rcases execFrame_cases s with ⟨_, h⟩ | ⟨_, h⟩ <;> cases hx.symm.trans h <;> simp [SameHost]
  case job =>
    rcases execJob_cases s with ⟨_, _, _, h⟩ | ⟨_, _, _, h⟩ | ⟨_, _, h⟩ | ⟨_, h⟩ <;> cases hx.symm.trans h <;>
      simp [SameHost]
  case header =>
    cases hx
    simp [SameHost]
  all_goals
    cases hx
    exact ⟨⟨rfl, rfl, rfl, rfl, rfl⟩, rfl, rfl, rfl, rfl, rfl⟩

theorem exec_sameHost {i : Instr} {s t : State} (hx : exec i s = .next t) : SameHost s t := by
  by_cases hi : i = .clear
  · subst hi
    cases hx
    exact ⟨rfl, rfl, rfl, rfl, rfl⟩
  · exact (exec_frame hi hx).1

/-- Of the buffers, registers and OUTFIFO, the execute step of a command other than CLEAR writes its own (R141, R142, R173,
R197, R224). -/
theorem execCmd_writes {w : Word} {s t : State} (hw : w ≠ 1) (hx : exec (decodeCmd w) s = .next t) :
    (w ≠ 3 → w ≠ 6 → t.bodybuf = s.bodybuf ∧ t.bodylen = s.bodylen) ∧ (w ≠ 2 → w ≠ 6 → t.bmpbuf = s.bmpbuf) ∧
    (w ≠ 5 → w ≠ 6 → t.chunkcnt = s.chunkcnt) ∧ t.outfifo = s.outfifo := by
  rcases execCmd_cases hx with ⟨_, rfl⟩ | ⟨rfl, _⟩ | ⟨rfl, rfl⟩ | ⟨rfl, _, _, rfl⟩ | ⟨rfl, rfl⟩ | ⟨rfl, _, rfl⟩ |
    ⟨rfl, _, _, _, rfl⟩ | ⟨_, rfl, _⟩
  case inr.inl => exact absurd rfl hw
  all_goals simp

theorem decodeCmd_ne_clear {w : Word} (hw : w ≠ 1) : decodeCmd w ≠ .clear := mt (decodeCmd_eq_clear_iff w).1 hw

/-! ### The window, as the commands leave it -/

theorem regAt_eq_some {off : Nat} {r : Reg} (h : regAt off = some r) : r.offset = off := by
  unfold regAt at h
  split at h
  case h_14 => cases h
  all_goals
    cases h
    rfl

/-- The window reads as before at every offset but those of the registers that may have changed. -/
theorem readValue_congr {s t : State} (changed : List Reg) (h : ∀ r, r ∉ changed → t.readReg r = s.readReg r)
    {off : Nat} (hoff : ∀ r ∈ changed, off ≠ r.offset) : t.readValue off = s.readValue off := by
  unfold State.readValue
  split
  next r hr => exact h r fun hmem => hoff r hmem (regAt_eq_some hr).symm
  next => rfl

theorem raise_readReg (e : ErrorKind) (op : Byte) (s : State) {r : Reg} (hr : r ≠ .status) :
    (s.raise e op).readReg r = s.readReg r := by
  cases r
  case status => exact absurd rfl hr
  all_goals rfl

theorem exec_pack_readReg {s t : State} (hx : exec .pack s = .next t) (r : Reg) (hr : r ∉ [.status, .bmplen]) :
    t.readReg r = s.readReg r := by
  cases hx
  cases r
  case status | bmplen => simp at hr
  all_goals simp [State.readReg, State.outLevel, State.outBlks, State.outData]

theorem exec_header_readReg {s t : State} (hx : exec .header s = .next t) (r : Reg) (hr : r ∉ [.status, .csum]) :
    t.readReg r = s.readReg r := by
  cases hx
  cases r
  case status | csum => simp at hr
  all_goals simp [State.readReg, State.outLevel, State.outBlks, State.outData]

theorem exec_build_readReg {s t : State} (hx : exec .build s = .next t) (r : Reg) (hr : r ∉ [.status, .bodylen]) :
    t.readReg r = s.readReg r := by
  have hstatus : r ≠ .status := List.ne_of_not_mem_cons hr
  rcases execBuild_cases s with ⟨_, _, h⟩ | ⟨_, _, h⟩ | ⟨_, h⟩ <;> cases hx.symm.trans h
  case inl =>
    cases r
    case status | bodylen => simp at hr
    all_goals simp [State.readReg, State.outLevel, State.outBlks, State.outData]
  all_goals exact raise_readReg _ _ s hstatus

theorem exec_frame_readReg {s t : State} (hx : exec .frame s = .next t) (r : Reg) (hr : r ∉ [.status, .chunkcnt]) :
    t.readReg r = s.readReg r := by
  have hstatus : r ≠ .status := List.ne_of_not_mem_cons hr
  rcases execFrame_cases s with ⟨_, h⟩ | ⟨_, h⟩ <;> cases hx.symm.trans h
  case inl =>
    cases r
    case status | chunkcnt => simp at hr
    all_goals simp [State.readReg, State.outLevel, State.outBlks, State.outData]
  case inr => exact raise_readReg _ _ s hstatus

theorem exec_job_readReg {s t : State} (hx : exec .job s = .next t) (r : Reg)
    (hr : r ∉ [.status, .bmplen, .bodylen, .csum, .chunkcnt]) : t.readReg r = s.readReg r := by
  have hstatus : r ≠ .status := List.ne_of_not_mem_cons hr
  rcases execJob_cases s with ⟨_, _, _, h⟩ | ⟨_, _, _, h⟩ | ⟨_, _, h⟩ | ⟨_, h⟩ <;> cases hx.symm.trans h
  case inl =>
    cases r
    case status | bmplen | bodylen | csum | chunkcnt => simp at hr
    all_goals simp [State.readReg, State.outLevel, State.outBlks, State.outData]
  all_goals exact raise_readReg _ _ s hstatus

/-! ### The writes of the window -/

/-- What no write of the window reaches (R63, R66). -/
theorem memWrite_frame {s t : State} {off : Nat} {v : Word} (hm : memWrite off v s = .next t) : SameHost s t ∧
    t.bmpbuf = s.bmpbuf ∧ t.bodybuf = s.bodybuf ∧ t.chunkcnt = s.chunkcnt ∧ t.outfifo = s.outfifo ∧
    t.readPlace = s.readPlace ∧ t.emit = s.emit := by
  rcases memWrite_next_cases hm with rfl | ⟨_, rfl, _⟩ | ⟨_, _, rfl⟩ | ⟨_, _, rfl⟩ | ⟨_, _, rfl⟩ | ⟨_, _, _, rfl⟩ |
    ⟨hb, _, _, rfl⟩ | ⟨_, _, _, _, rfl⟩
  case inr.inr.inr.inr.inr.inr.inl => simp [SameHost, ((busy_false_iff s).1 hb).2]
  all_goals exact ⟨⟨rfl, rfl, rfl, rfl, rfl⟩, rfl, rfl, rfl, rfl, rfl, rfl⟩

/-- What a write of the window reaches, each by its own offset (R63, R140, R220). -/
theorem memWrite_writes {s t : State} {off : Nat} {v : Word} (hm : memWrite off v s = .next t) :
    (off ≠ 0x08 → t.width = s.width) ∧ (off ≠ 0x0C → t.height = s.height) ∧ (off ≠ 0x10 → t.pixbuf = s.pixbuf) ∧
    (∃ extra, t.pixbuf = s.pixbuf ++ extra ∧ extra.length ≤ 1) ∧ (off ≠ 0x1C → t.bodylen = s.bodylen) ∧
    (off ≠ 0x00 → t.pending = s.pending) := by
  rcases memWrite_next_cases hm with rfl | ⟨_, rfl, _⟩ | ⟨_, rfl, rfl⟩ | ⟨_, rfl, rfl⟩ | ⟨_, rfl, rfl⟩ |
    ⟨_, rfl, _, rfl⟩ | ⟨hb, _, _, rfl⟩ | ⟨_, rfl, _, _, rfl⟩
  case inr.inr.inr.inr.inr.inl => simp
  case inr.inr.inr.inr.inr.inr.inl => simp [((busy_false_iff s).1 hb).1]
  all_goals simp

/-- A busy PEE answers a write by OVR or not at all (R67). -/
theorem memWrite_of_busy {s t : State} {off : Nat} {v : Word} (hb : s.busy = true) (hm : memWrite off v s = .next t) :
    t = s ∨ t = s.setOvr := by
  rcases memWrite_next_cases hm with h | ⟨_, h, _⟩ | ⟨hidle, _⟩ | ⟨hidle, _⟩ | ⟨hidle, _⟩ | ⟨hidle, _⟩ | ⟨hidle, _⟩ |
    ⟨hidle, _⟩
  case inl => exact .inl h
  case inr.inl => exact .inr h
  all_goals exact absurd (hb.symm.trans hidle) (by decide)

/-! ### The step -/

theorem step_cfg {s t : State} (hs : step s = .next t) : t.cfg = s.cfg := by
  rcases step_kind_cases hs with ⟨w, _, hx⟩ | ⟨b, rest, _, _, rfl⟩ | ⟨off, v, rest, _, hm⟩ | ⟨_, _, rfl⟩ | ⟨_, ht⟩
  · exact (exec_sameHost hx).1
  · rfl
  · exact (memWrite_frame hm).1.1
  · rfl
  · rw [ht]

/-- Only reads of OUTDATA, CLEAR and reset change the place of the byte read next (R95). -/
theorem step_readPlace {s t : State} (hs : step s = .next t) (hc : ¬ s.clears) (hp : ¬ s.hostPops) :
    t.readPlace = s.readPlace := by
  rcases step_state_cases hs with ⟨w, hw, hx⟩ | ⟨b, rest, _, _, rfl⟩ | ⟨_, _, _, _, _, _, _, rfl⟩ | ⟨_, _, _, _, hpop, _⟩ |
    ⟨off, v, rest, _, hm⟩ | ⟨_, hr, _⟩
  · have hclear : w ≠ 1 := by
      rintro rfl
      exact hc (.inl hw)
    obtain ⟨_, _, _, _, _, hplace⟩ := exec_frame (decodeCmd_ne_clear hclear) hx
    exact hplace
  · rfl
  · rfl
  · exact absurd hpop hp
  · obtain ⟨_, _, _, _, _, hplace, _⟩ := memWrite_frame hm
    exact hplace
  · exact absurd (.inr hr) hc

/-! ### STATUS, bit by bit -/

theorem getLsbD_of_toNat {x : Word} {k : Nat} {b : Bool} (h : x.toNat / 2 ^ k % 2 = b.toNat) : x.getLsbD k = b := by
  rw [← BitVec.testBit_toNat, Nat.testBit_eq_decide_div_mod_eq, h]
  cases b <;> rfl

theorem ushiftRight_eq_zero {x : Word} {k : Nat} (h : x.toNat < 2 ^ k) : x >>> k = 0 := by
  apply BitVec.eq_of_toNat_eq
  rw [BitVec.toNat_ushiftRight, Nat.shiftRight_eq_div_pow, Nat.div_eq_of_lt h]
  rfl

/-- The OUTDATA word has nothing above VALID (R95). -/
theorem outData_toNat_lt (s : State) : s.outData.toNat < 2 ^ 10 := by
  rcases popOut_cases s with ⟨_, _, h⟩ | ⟨b, last, _, _, _, h⟩ <;> rw [h]
  · decide
  · have := b.isLt
    have := last.toNat_lt
    rw [outDataWord_toNat]
    omega

/-! ### LengthOverflow -/

theorem State.Inv.lenOK_bmpbuf {s : State} (h : s.Inv) : lenOK s.bmpbuf.length = true := by
  obtain ⟨_, hpix, _, _⟩ := h.cfg
  have := h.bounded.bmplen
  rw [Wire.ceilDiv] at this
  rw [lenOK_iff]
  omega

theorem State.Inv.lenOK_pack {s : State} (h : s.Inv) : lenOK (Wire.pack s.pixbuf).length = true := by
  obtain ⟨_, hpix, _, _⟩ := h.cfg
  have := h.pack_length_le
  rw [Wire.ceilDiv] at this
  rw [lenOK_iff]
  omega

theorem State.Inv.not_bodyTooLong {s : State} (h : s.Inv) (w : Word) : ¬ s.bodyTooLong w := by
  rintro (⟨rfl, hlong⟩ | ⟨rfl, hlong⟩)
  · have := (lenOK_iff _).1 h.lenOK_bmpbuf
    omega
  · have := (lenOK_iff _).1 h.lenOK_pack
    rw [Wire.pack_length] at this
    omega

/-- The first cause an execute step reports from a state of the invariant is not the body's length (R144). -/
theorem State.Inv.firstCause_ne_lengthOverflow {s : State} {w : Word} {e : ErrorKind} (h : s.Inv)
    (hcause : s.firstCause w e) : e ≠ .lengthOverflow := by
  rcases hcause with ⟨_, rfl⟩ | ⟨_, _, rfl⟩ | ⟨_, _, hlong, _⟩ | ⟨_, _, _, rfl⟩
  case inr.inr.inl => exact absurd hlong (h.not_bodyTooLong w)
  all_goals decide

theorem code_eq_three_iff (e : ErrorKind) : e.code = 3 ↔ e = .lengthOverflow := by cases e <;> decide

/-- The error a step raises from a state of the invariant is not LengthOverflow (R144). -/
theorem State.Inv.step_errcode_ne {s t : State} (h : s.Inv) (he : s.err = false) (hs : Machine.step s = .next t)
    (ht : t.err = true) : t.errcode ≠ 3 := by
  have kept : t.err = s.err → t.errcode ≠ 3 := fun hsame => absurd (ht.symm.trans (hsame.trans he)) (by decide)
  rcases step_kind_cases hs with ⟨w, hw, hx⟩ | ⟨b, rest, _, _, rfl⟩ | ⟨off, v, rest, _, hm⟩ | ⟨_, _, rfl⟩ | ⟨_, hkept⟩
  · obtain ⟨e, rfl, hcause⟩ := execCmd_raises_firstCause (s := { s.spendTurn with pending := none }) hx he ht
    have hturn : State.Inv { s.spendTurn with pending := none } :=
      State.Inv.takePending (s := s.spendTurn) (h.of_unread rfl)
    rw [raise_first (s := { s.spendTurn with pending := none }) he]
    exact mt (code_eq_three_iff e).1 (hturn.firstCause_ne_lengthOverflow hcause)
  · exact kept rfl
  · rcases memWrite_error_cases hm with ⟨hsame, _⟩ | ⟨_, rfl⟩
    · exact kept hsame
    · rw [raise_first (s := s.spendTurn.goOn rest) he]
      exact mt (code_eq_three_iff .pixelOverflow).1 (by decide)
  · cases ht
  · exact kept (by rw [hkept])

/-! ### Refusals -/

/-- A host step is refused at a bus access outside what R61 allows, and only there. -/
theorem hostStep_refused {s : State} {r : Refusal} (h : hostStep s = .refused r) :
    ∃ addr size, r = .accessNotAdmitted addr size ∧ admittedOffset s.cfg addr size = none ∧
      (s.prog.head? = some (.bus (.read addr size)) ∨ ∃ v, s.prog.head? = some (.bus (.write addr size v))) := by
  unfold hostStep at h
  split at h
  case h_2 a rest hp =>
    cases a with
    | read addr size =>
      simp only [busStep] at h
      split at h
      · cases h
      next hno =>
        cases h
        exact ⟨addr, size, rfl, hno, .inl (by rw [hp]; rfl)⟩
    | write addr size v =>
      simp only [busStep] at h
      split at h
      next off _ =>
        obtain ⟨t, ht, _⟩ := memWrite_cases off v (s.goOn rest)
        cases ht.symm.trans h
      next hno =>
        cases h
        exact ⟨addr, size, rfl, hno, .inr ⟨v, by rw [hp]; rfl⟩⟩
  all_goals cases h

theorem step_refused {s : State} {r : Refusal} (h : step s = .refused r) :
    s.nextAgent = .host ∧ hostStep s.spendTurn = .refused r := by
  rcases step_cases s with ⟨ha, hs⟩ | ⟨_, hs⟩ | ⟨_, hs⟩
  · exact ⟨ha, hs.symm.trans h⟩
  · obtain ⟨t, ht, _⟩ := engineStep_cases s.spendTurn
    cases (hs.trans ht).symm.trans h
  · cases hs.symm.trans h

/-- The program that a host step leaves makes only admitted accesses if the one before it does: it is what stood after the
statement, behind the statement's own loop or not (R107). -/
theorem hostStep_safeProg {s t : State} (h : hostStep s = .next t) (hsafe : s.safeProg = true) : t.safeProg = true := by
  have tail {st : HostStmt} {rest : List HostStmt} (hp : s.prog = st :: rest) :
      rest.all (HostStmt.admitted s.cfg) = true := by
    rw [State.safeProg, hp, List.all_cons, Bool.and_eq_true] at hsafe
    exact hsafe.2
  unfold hostStep at h
  split at h
  case h_1 =>
    cases h
    exact hsafe
  case h_2 a rest hp =>
    have hkept : t.cfg = s.cfg ∧ t.prog = rest := by
      cases a with
      | read addr size =>
        simp only [busStep] at h
        split at h
        next off _ =>
          cases h
          refine ⟨?_, rfl⟩
          rcases afterRead_cases off s with ⟨_, hr⟩ | ⟨_, hr⟩ <;> simp only [hr]
          rw [popOut_eq]
        · cases h
      | write addr size v =>
        simp only [busStep] at h
        split at h
        · obtain ⟨⟨hcfg, _, hprog, _⟩, _⟩ := memWrite_frame h
          exact ⟨hcfg, hprog⟩
        · cases h
    rw [State.safeProg, hkept.1, hkept.2]
    exact tail hp
  case h_8 rest hp =>
    cases h
    exact tail hp
  case h_5 rest hp =>
    cases h
    have hcfg : s.popAndLog.cfg = s.cfg := by rw [popAndLog_eq]
    simp only [State.safeProg, State.goOn_cfg, State.goOn_prog, hcfg, List.all_cons, HostStmt.admitted, tail hp,
      Bool.true_and]
  all_goals
    next rest hp =>
    have hrest := tail hp
    have hcfg : s.popAndLog.cfg = s.cfg := by rw [popAndLog_eq]
    cases h
    simp only [State.safeProg, State.goOn_cfg, State.goOn_prog, hcfg, afterStatus]
    split <;> simp only [List.all_cons, HostStmt.admitted, hrest, Bool.true_and]

theorem step_safeProg {s t : State} (hs : step s = .next t) (hsafe : s.safeProg = true) : t.safeProg = true := by
  have kept (hcfg : t.cfg = s.cfg) (hprog : t.prog = s.prog) : t.safeProg = true := by
    rwa [State.safeProg, hcfg, hprog]
  rcases step_cases s with ⟨_, hstep⟩ | ⟨_, hstep⟩ | ⟨_, hstep⟩ <;> rw [hstep] at hs
  · exact hostStep_safeProg hs hsafe
  · obtain ⟨u, hu, hcase⟩ := engineStep_cases s.spendTurn
    cases hu.symm.trans hs
    rcases hcase with ⟨w, _, hx⟩ | ⟨b, rest, _, _, _, rfl⟩ | ⟨_, rfl, _⟩
    · obtain ⟨hcfg, _, hprog, _⟩ := exec_sameHost hx
      exact kept hcfg hprog
    · exact kept rfl rfl
    · exact kept rfl rfl
  · cases hs
    exact kept rfl rfl

/-- A program of admitted accesses is not refused, and no step ends in a fault. -/
theorem step_answers_next {s : State} (hsafe : s.safeProg = true) : ∃ t, step s = .next t := by
  cases hs : step s with
  | next t => exact ⟨t, rfl⟩
  | fault f => cases f
  | refused r =>
    obtain ⟨addr, size, _, hno, hhead⟩ := hostStep_refused (step_refused hs).2
    have admitted {st : HostStmt} (h : s.prog.head? = some st) : st.admitted s.cfg = true :=
      List.all_eq_true.1 hsafe st (List.mem_of_head? h)
    have refused : (admittedOffset s.cfg addr size).isSome = false :=
      Option.isSome_eq_false_iff.2 (Option.isNone_iff_eq_none.2 hno)
    rcases hhead with h | ⟨v, h⟩ <;> exact absurd ((admitted h).symm.trans refused) (by decide)

end Sys2Proof.Machine

namespace Sys2Proof.Proofs

open Sys2Proof.Machine

/-- Settles O55: State.reset is its own reset table, and the table satisfies the invariant. -/
theorem invariantHoldsAtStart : Obligations.InvariantHoldsAtStart :=
  ⟨⟨by decide, rfl, rfl, rfl⟩, fun _ => State.Start.inv⟩

/-- Settles O56, from the invariant's preservation, operation by operation. -/
theorem stepKeepsTheInvariant : Obligations.StepKeepsTheInvariant := fun _ _ h hs => ⟨h.step hs, step_cfg hs⟩

/-- Settles O10: the invariant's bounds on the buffers keep every body within the length field. -/
theorem lengthOverflowUnreachable : Obligations.LengthOverflowUnreachable := by
  refine ⟨lenOK_iff, fun s h => ⟨h.lenOK_bmpbuf, h.lenOK_pack, fun t he hs => ?_⟩⟩
  cases ht : t.err
  case false =>
    rw [((h.step hs).bounded.noError ht).1]
    decide
  case true => exact h.step_errcode_ne he hs ht

/-- Settles O18: each field by its weight in STATUS, and each register by its bound. -/
theorem statusFieldsAndReservedBits : Obligations.StatusFieldsAndReservedBits := by
  intro s
  have hword := statusWord_toNat s
  have := s.errop.isLt
  have := s.errcode.isLt
  have := s.ovr.toNat_lt
  have := s.err.toNat_lt
  have := s.done.toNat_lt
  have := s.busy.toNat_lt
  refine ⟨statusWord_getLsbD_zero s, getLsbD_of_toNat (x := s.statusWord) ?done, getLsbD_of_toNat (x := s.statusWord) ?err,
    getLsbD_of_toNat (x := s.statusWord) ?ovr, BitVec.eq_of_toNat_eq (x := s.statusWord.extractLsb' 4 4) ?errcode,
    BitVec.eq_of_toNat_eq (x := s.statusWord.extractLsb' 8 8) ?errop, ushiftRight_eq_zero (x := s.statusWord) ?reserved,
    ushiftRight_eq_zero (x := s.csum.setWidth 32) ?csum, ushiftRight_eq_zero (x := s.chunkcnt.setWidth 32) ?chunkcnt,
    ushiftRight_eq_zero (outData_toNat_lt s), fun off _ hoff _ => readValue_reserved hoff s⟩
  case csum => rw [BitVec.toNat_setWidth_of_le (by decide)]; exact s.csum.isLt
  case chunkcnt => rw [BitVec.toNat_setWidth_of_le (by decide)]; exact s.chunkcnt.isLt
  case errcode | errop =>
    rw [BitVec.extractLsb'_toNat, Nat.shiftRight_eq_div_pow]
    omega
  all_goals omega

/-- Settles O31, instruction by instruction. -/
theorem execFrames : Obligations.ExecFrames := by
  refine ⟨fun i s t => exec_sameHost, fun i s t hi hx => (exec_frame hi hx).2, fun s t hx => ?pack, fun s t hx => ?build,
    fun s t hx => ?header, fun s t hx => ?frame, fun s t hx => ?job, fun r o s t hx => ?illegal⟩
  case pack =>
    have hregs := exec_pack_readReg hx
    cases hx
    exact ⟨rfl, rfl, rfl, rfl, rfl, fun off h4 h18 => readValue_congr _ hregs (by simp [Reg.offset, h4, h18])⟩
  case build =>
    have hregs := exec_build_readReg hx
    obtain ⟨_, hbmp, _, hfifo⟩ := execCmd_writes (w := 3) (by decide) hx
    exact ⟨hbmp (by decide) (by decide), hfifo,
      fun off h4 h1C => readValue_congr _ hregs (by simp [Reg.offset, h4, h1C])⟩
  case header =>
    have hregs := exec_header_readReg hx
    obtain ⟨hbody, hbmp, _, hfifo⟩ := execCmd_writes (w := 4) (by decide) hx
    cases hx
    exact ⟨hbmp (by decide) (by decide), (hbody (by decide) (by decide)).1, hfifo, rfl, rfl,
      fun off h4 h20 => readValue_congr _ hregs (by simp [Reg.offset, h4, h20])⟩
  case frame =>
    have hregs := exec_frame_readReg hx
    obtain ⟨hbody, hbmp, _, hfifo⟩ := execCmd_writes (w := 5) (by decide) hx
    exact ⟨hbmp (by decide) (by decide), (hbody (by decide) (by decide)).1, hfifo,
      fun off h4 h24 => readValue_congr _ hregs (by simp [Reg.offset, h4, h24])⟩
  case job =>
    have hregs := exec_job_readReg hx
    obtain ⟨_, _, _, hfifo⟩ := execCmd_writes (w := 6) (by decide) hx
    exact ⟨hfifo, fun off h4 h18 h1C h20 h24 => readValue_congr _ hregs (by simp [Reg.offset, h4, h18, h1C, h20, h24])⟩
  case illegal =>
    cases hx
    exact ⟨rfl, rfl, rfl, fun off h4 => readValue_congr [.status]
      (fun _ hr => raise_readReg _ _ s (List.ne_of_not_mem_cons hr)) (by simp [Reg.offset, h4])⟩

/-- Settles O53, kind of step by kind of step. -/
theorem whoWritesWhat : Obligations.WhoWritesWhat := by
  intro s t hs hc
  rcases step_state_cases hs with ⟨w, hw, hx⟩ | ⟨b, rest, hb, _, rfl⟩ | ⟨_, _, _, _, _, _, _, rfl⟩ |
    ⟨_, _, _, _, hpop, ht, _⟩ | ⟨off, v, rest, hw, hm⟩ | ⟨_, hr, _⟩
  case inl =>
    have hw1 : w ≠ 1 := fun h => hc (.inl (h ▸ hw))
    have hne {u : Word} (hno : ¬ s.executes u) : w ≠ u := fun h => hno (h ▸ hw)
    obtain ⟨hbody, hbmp, hcnt, hfifo⟩ := execCmd_writes hw1 hx
    obtain ⟨_, hwidth, hheight, hpix, _⟩ := exec_frame (decodeCmd_ne_clear hw1) hx
    exact ⟨fun h3 h6 => (hbody (hne h3) (hne h6)).1, fun h2 h6 => hbmp (hne h2) (hne h6), fun _ => hpix,
      ⟨[], hpix.trans (List.append_nil _).symm, by decide⟩, fun h5 h6 => hcnt (hne h5) (hne h6),
      fun h3 h6 _ => (hbody (hne h3) (hne h6)).2, fun _ => hwidth, fun _ => hheight,
      fun h4 h6 => step_csum hs h4 h6 hc, fun _ _ => hfifo, fun hno => absurd hw (hno w),
      fun hno => absurd hw (hno w)⟩
  case inr.inl =>
    exact ⟨fun _ _ => rfl, fun _ _ => rfl, fun _ => rfl, ⟨[], (List.append_nil _).symm, by decide⟩, fun _ _ => rfl,
      fun _ _ _ => rfl, fun _ => rfl, fun _ => rfl, fun _ _ => rfl, fun hno _ => absurd hb (hno b), fun _ _ => rfl,
      fun _ hno => absurd hb (hno b)⟩
  case inr.inr.inl =>
    exact ⟨fun _ _ => rfl, fun _ _ => rfl, fun _ => rfl, ⟨[], (List.append_nil _).symm, by decide⟩, fun _ _ => rfl,
      fun _ _ _ => rfl, fun _ => rfl, fun _ => rfl, fun _ _ => rfl, fun _ _ => rfl, fun _ _ => rfl, fun _ _ => rfl⟩
  case inr.inr.inr.inl =>
    rw [popOut_eq s] at ht
    subst ht
    exact ⟨fun _ _ => rfl, fun _ _ => rfl, fun _ => rfl, ⟨[], (List.append_nil _).symm, by decide⟩, fun _ _ => rfl,
      fun _ _ _ => rfl, fun _ => rfl, fun _ => rfl, fun _ _ => rfl, fun _ hno => absurd hpop hno, fun _ _ => rfl,
      fun _ _ => rfl⟩
  case inr.inr.inr.inr.inl =>
    have hne {o : Nat} (hno : ∀ u, ¬ s.hostWrites o u) : off ≠ o := fun h => hno v (h ▸ hw)
    obtain ⟨_, hbmp, hbody, hcnt, hfifo, _, hemit⟩ := memWrite_frame hm
    obtain ⟨hwidth, hheight, hpix, hextra, hlen, hpend⟩ := memWrite_writes hm
    exact ⟨fun _ _ => hbody, fun _ _ => hbmp, fun hno => hpix (hne hno), hextra, fun _ _ => hcnt,
      fun _ _ hno => hlen (hne hno), fun hno => hwidth (hne hno), fun hno => hheight (hne hno),
      fun h4 h6 => step_csum hs h4 h6 hc, fun _ _ => hfifo, fun _ hno => hpend (hne hno), fun _ _ => hemit⟩
  case inr.inr.inr.inr.inr => exact absurd (.inr hr) hc

/-- Settles O51: the hold is kept by `step_held`, and what it is computed from has no other writer. -/
theorem holdLastsUntilTheHostReads : Obligations.HoldLastsUntilTheHostReads := by
  intro s t hheld hs hpops hresets
  have htheld := step_held hs hheld hpops hresets
  obtain ⟨_, _, htp, _, _⟩ := (held_iff t).1 htheld
  obtain ⟨b, rest, hp, he, hf⟩ := (held_iff s).1 hheld
  have hexec : ∀ w, ¬ s.executes w := fun w hw => by cases hp.symm.trans hw.2
  have hemits : ∀ c, ¬ s.emits c := fun c ⟨_, _, hhead, hfits⟩ => by
    rw [he, List.head?_cons, Option.some.injEq] at hhead
    exact absurd (hfits.symm.trans (hhead ▸ hf)) (by decide)
  have hclears : ¬ s.clears := fun hc => hc.elim (hexec 1) hresets
  obtain ⟨_, _, _, _, _, _, _, _, _, hfifo, _, hemit⟩ := whoWritesWhat s t hs hclears
  exact ⟨htheld, held_busy htheld, hemit hexec hemits, hfifo hemits hpops, htp⟩

/-- Settles O52: the host's writes are ignored, and only reads of OUTDATA reach OUTFIFO. -/
theorem runningCommandSeesFrozenInputs : Obligations.RunningCommandSeesFrozenInputs := by
  intro s t hb hturn hs hresets
  have hexec : ∀ w, ¬ s.executes w := fun w hw => by cases hturn.symm.trans hw.1
  have hemits : ∀ b, ¬ s.emits b := fun b hb => by cases hturn.symm.trans hb.1
  have hclears : ¬ s.clears := fun hc => hc.elim (hexec 1) hresets
  obtain ⟨_, _, _, _, _, _, _, _, _, hfifo, _⟩ := whoWritesWhat s t hs hclears
  refine ⟨?_, fun hpops => ⟨hfifo hemits hpops, step_readPlace hs hclears hpops⟩⟩
  rcases step_kind_cases hs with ⟨w, hw, _⟩ | ⟨b, _, hb, _⟩ | ⟨off, v, rest, _, hm⟩ | ⟨_, hr, _⟩ | ⟨_, ht⟩
  · exact absurd hw (hexec w)
  · exact absurd hb (hemits b)
  · rcases memWrite_of_busy (s := s.spendTurn.goOn rest) hb hm with rfl | rfl <;> rfl
  · exact absurd hr hresets
  · rw [ht]

/-- Settles O54: a refusal names an unadmitted access of the host's, and a safe program has none. -/
theorem onlyUnadmittedAccessesAreRefused : Obligations.OnlyUnadmittedAccessesAreRefused := by
  refine ⟨fun s hsafe => ?_, fun s r hs => ?_⟩
  · obtain ⟨t, ht⟩ := step_answers_next hsafe
    exact ⟨t, ht, step_safeProg ht hsafe⟩
  · obtain ⟨hturn, hrefused⟩ := step_refused hs
    obtain ⟨addr, size, hr, hno, hhead⟩ := hostStep_refused hrefused
    exact ⟨addr, size, hr, hno, hhead.imp (⟨hturn, ·⟩) fun ⟨v, h⟩ => ⟨v, hturn, h⟩⟩

end Sys2Proof.Proofs
end

section
/-! The output stream (spec/20_memory.md R71, spec/30_encoding.md R95, R303): no step loses, repeats or reorders a byte of it, and
the host's record splits into the blocks it was made of. -/

namespace Sys2Proof.Machine

open Sys2Proof.Claims

/-! ### The bytes of blocks -/

@[simp] theorem tagBlock_length (b : Block) : (tagBlock b).length = b.length := by
  induction b using tagBlock.induct with
  | case1 => rfl
  | case2 x => rfl
  | case3 x y bs ih => rw [tagBlock, List.length_cons, ih]; rfl

/-- OUTLEVEL counts the bytes the port has still to give (R31). -/
theorem outLevel_eq (s : State) : s.outLevel = (s.outfifo.flatMap tagBlock).length := by
  simp [State.outLevel, List.length_flatMap]

theorem flatMap_tagBlock_of_popFifo_none {f : List Block} (h : popFifo f = none) : f.flatMap tagBlock = [] :=
  List.flatMap_eq_nil_iff.2 fun b hb => by rw [popFifo_none h b hb, tagBlock]

/-- As many reads as there are bytes, and one more, give the bytes in order and then 0 (R228). -/
theorem outReads_outLevel (n : Nat) {s : State} (hn : s.outLevel = n) :
    outReads (n + 1) s = (s.outfifo.flatMap tagBlock).map (fun p => outDataWord p.1 p.2) ++ [0] := by
  induction n generalizing s with
  | zero =>
    have htags : s.outfifo.flatMap tagBlock = [] := List.length_eq_zero_iff.1 ((outLevel_eq s).symm.trans hn)
    rcases popOut_cases s with ⟨_, _, hdata⟩ | ⟨b, last, rest, hpop, _, _⟩
    · rw [htags]
      exact congrArg (· :: []) hdata
    · cases htags.symm.trans (popFifo_some hpop).1
  | succ n ih =>
    rcases popOut_cases s with ⟨hpop, _, _⟩ | ⟨b, last, rest, hpop, hs, hdata⟩
    · rw [outLevel_eq, flatMap_tagBlock_of_popFifo_none hpop] at hn
      cases hn
    · obtain ⟨htags, hsum, _, _⟩ := popFifo_some hpop
      have hlevel : s.popOut.outLevel = n := by
        rw [hs]
        exact Nat.succ.inj (hsum.symm.trans hn)
      have hread : outReads (n + 1 + 1) s = s.outData :: outReads (n + 1) s.popOut := rfl
      rw [hread, ih hlevel, hdata, htags, hs]
      rfl

/-! ### The places of a stream's bytes -/

/-- What follows whole blocks begins with a first byte; where no block stands before it, the place must already be first (R95). -/
theorem markPlace_blocks_append {p : BlockPlace} {bs : List Block} (hne : ∀ b ∈ bs, b ≠ []) (hp : bs = [] → p = .first)
    (ys : List (Byte × Bool)) : markPlace p (bs.flatMap tagBlock ++ ys) =
      markPlace p (bs.flatMap tagBlock) ++ markPlace .first ys := by
  induction bs generalizing p with
  | nil => rw [hp rfl]; rfl
  | cons b bs ih =>
    obtain ⟨hb, hbs⟩ := List.forall_mem_cons.1 hne
    rw [List.flatMap_cons, List.append_assoc, markPlace_tagBlock_append p hb, markPlace_tagBlock_append p hb,
      ih hbs fun _ => rfl, List.append_assoc]

theorem BlockPlace.after_eq_next {logged last : Bool} {p : BlockPlace} :
    p.after logged last = .next ↔ last = false ∧ logged = true ∧ p ≠ .gap := by
  cases logged <;> cases last <;> cases p <;> decide

/-! ### The stream, step by step -/

/-- The bytes that wait for the host, in OUTFIFO and in EMIT. -/
def State.unread (s : State) : List (Byte × Bool) := s.outfifo.flatMap tagBlock ++ s.emit.flatMap tagBlock

theorem stream_eq (s : State) : s.stream = s.log ++ markPlace s.readPlace s.unread := rfl

theorem stream_congr {s t : State} (hlog : t.log = s.log) (hplace : t.readPlace = s.readPlace)
    (hunread : t.unread = s.unread) : t.stream = s.stream := by
  rw [stream_eq, stream_eq, hlog, hplace, hunread]

theorem unread_congr {s t : State} (hfifo : t.outfifo = s.outfifo) (hemit : t.emit = s.emit) : t.unread = s.unread := by
  rw [State.unread, State.unread, hfifo, hemit]

/-- Emission moves the head block from EMIT to the end of OUTFIFO (R226). -/
theorem emitHead_unread {s : State} {b : Block} {rest : List Block} (he : s.emit = b :: rest) :
    (s.emitHead b rest).unread = s.unread := by
  simp [State.unread, he]

/-- A logged read moves a byte from the head of OUTFIFO to the end of the record (R107). -/
theorem popAndLog_stream (s : State) : s.popAndLog.stream = s.stream := by
  rcases popAndLog_cases s with ⟨_, h⟩ | ⟨b, last, rest, hpop, h⟩ <;> rw [h]
  simp [State.stream, (popFifo_some hpop).1, markPlace]

theorem step_stream {s t : State} (hs : step s = .next t) (hx : ∀ w, ¬ s.executes w) (hr : ¬ s.resets)
    (hu : ¬ s.hostPopsUnlogged) : t.stream = s.stream := by
  rcases step_state_cases hs with ⟨w, hw, _⟩ | ⟨b, rest, _, he, rfl⟩ | ⟨_, _, _, _, _, _, _, rfl⟩ |
    ⟨_, _, l, q, _, ht, _, hlogged⟩ | ⟨off, v, rest, _, hm⟩ | ⟨_, hr', _⟩
  · exact absurd hw (hx w)
  · exact stream_congr rfl rfl (emitHead_unread (s := s.spendTurn) he)
  · rfl
  · obtain ⟨rfl, rfl⟩ := hlogged hu
    rw [popOut_eq s] at ht
    have hfifo : s.popAndLog.outfifo = s.popOut.outfifo := by rw [popAndLog_eq]
    have hemit : s.popAndLog.emit = s.emit := by rw [popAndLog_eq]
    rw [← popAndLog_stream s, ht]
    exact stream_congr rfl rfl (unread_congr hfifo.symm hemit.symm)
  · obtain ⟨⟨_, _, _, _, hlog⟩, _, _, _, hfifo, hplace, hemit⟩ := memWrite_frame hm
    exact stream_congr hlog hplace (unread_congr hfifo hemit)
  · exact absurd hr' hr

/-- The blocks of OUTFIFO are not empty (R43). -/
theorem State.Inv.outfifo_ne_nil {s : State} (h : s.Inv) : ∀ b ∈ s.outfifo, b ≠ [] := fun b hb =>
  List.length_pos_iff.1 (h.bounded.outBlocks b hb).1

theorem State.Inv.emit_ne_nil {s : State} (h : s.Inv) : ∀ b ∈ s.emit, b ≠ [] := fun b hb =>
  List.length_pos_iff.1 (h.bounded.emitBlocks b hb).1

/-- The execute step of a command other than CLEAR puts its blocks behind the stream (R41, R221). -/
theorem State.Inv.execute_stream {s t : State} {w : Word} (h : s.Inv) (hs : Machine.step s = .next t) (hw : s.executes w)
    (hw1 : w ≠ 1) : t.stream = s.stream ++ markPlace .first (t.emit.flatMap tagBlock) := by
  have hx := (step_of_executes hw).symm.trans hs
  obtain ⟨_, _, _, hfifo⟩ := execCmd_writes hw1 hx
  obtain ⟨⟨_, _, _, _, hlog⟩, _, _, _, _, hplace⟩ := exec_frame (decodeCmd_ne_clear hw1) hx
  have hfirst : s.outfifo = [] → s.readPlace = .first := fun ho => not_not.1 fun hne => h.readPlace hne ho
  have hemit : s.emit = [] := (h.of_pending hw.2).1
  calc t.stream
      = s.log ++ markPlace s.readPlace (s.outfifo.flatMap tagBlock ++ t.emit.flatMap tagBlock) := by
        rw [State.stream, hfifo, hlog, hplace]
        rfl
    _ = s.log ++ (markPlace s.readPlace (s.outfifo.flatMap tagBlock) ++ markPlace .first (t.emit.flatMap tagBlock)) := by
        rw [markPlace_blocks_append h.outfifo_ne_nil hfirst]
    _ = s.stream ++ markPlace .first (t.emit.flatMap tagBlock) := by
        rw [State.stream, hemit, List.flatMap_nil, List.append_nil, List.append_assoc]

/-! ### The blocks of a record -/

/-- A record read after another adds its blocks, if they are the same whatever block was begun before it. -/
theorem splitBlocks_append {ys : List LogByte} {blocks : List Block} (h : ∀ begun, splitBlocks begun ys = blocks)
    (record : List LogByte) (begun : Option Block) :
    splitBlocks begun (record ++ ys) = splitBlocks begun record ++ blocks := by
  induction record generalizing begun with
  | nil => exact h begun
  | cons e record ih =>
    rw [List.cons_append, splitBlocks, splitBlocks]
    split
    · rw [ih, List.append_assoc]
    · exact ih _

/-- Whole blocks are the blocks of their record (R303). -/
theorem splitBlocks_blocks {blocks : List Block} (h : ∀ b ∈ blocks, b ≠ []) (begun : Option Block) :
    splitBlocks begun (markPlace .first (blocks.flatMap tagBlock)) = blocks := by
  induction blocks generalizing begun with
  | nil => rfl
  | cons b bs ih =>
    obtain ⟨hb, hbs⟩ := List.forall_mem_cons.1 h
    rw [List.flatMap_cons, markPlace_tagBlock_append _ hb, splitBlocks_block hb, ih hbs]

/-- What follows the rest of a block that has a gap is split as if nothing had been before (log 8). -/
theorem splitBlocks_gap_blocks {tail : Block} {blocks : List Block} (ht : tail ≠ []) (h : ∀ b ∈ blocks, b ≠ [])
    (begun : Option Block) :
    splitBlocks begun (markPlace .gap (tagBlock tail ++ blocks.flatMap tagBlock)) = blocks := by
  rw [markPlace_tagBlock_append _ ht, splitBlocks_gap ht, splitBlocks_blocks h]

/-! ### A read of OUTDATA -/

theorem popAndLog_of_outfifo_cons {s : State} {b : Byte} {bs : Block} {rest : List Block}
    (h : s.outfifo = (b :: bs) :: rest) : s.popAndLog.readPlace = s.readPlace.after true bs.isEmpty ∧
      s.popAndLog.log = s.log ++ [⟨b, s.readPlace, bs.isEmpty⟩] := by
  have hpop := popFifo_cons b bs rest
  rw [← h] at hpop
  rcases popAndLog_cases s with ⟨hf, _⟩ | ⟨_, _, _, hf, hs⟩ <;> cases hpop.symm.trans hf
  rw [hs]
  exact ⟨rfl, rfl⟩

/-- What a read of OUTDATA that returns a byte leaves of the place and the record, by whether its statement logs (R95, R107). -/
theorem step_pop {s t : State} {b : Byte} {bs : Block} {rest : List Block} (h : s.outfifo = (b :: bs) :: rest)
    (hp : s.hostPops) (hs : step s = .next t) :
    (s.hostPopsUnlogged ∧ t.readPlace = s.readPlace.after false bs.isEmpty ∧ t.log = s.log) ∨
    (¬ s.hostPopsUnlogged ∧ t.readPlace = s.readPlace.after true bs.isEmpty ∧
      t.log = s.log ++ [⟨b, s.readPlace, bs.isEmpty⟩]) := by
  obtain ⟨hx, he, hr, hw⟩ := hostPops_excludes hp
  rcases step_state_cases hs with ⟨w, hw', _⟩ | ⟨b, _, hb, _⟩ | ⟨_, _, _, _, _, _, hno, _⟩ |
    ⟨_, _, l, q, _, rfl, hplain, hlogged⟩ | ⟨off, v, _, hw', _⟩ | ⟨_, hr', _⟩
  case inr.inr.inr.inl =>
    by_cases hu : s.hostPopsUnlogged
    · obtain ⟨rfl, rfl⟩ := hplain hu
      exact .inl ⟨hu, by rw [(popOut_of_outfifo_cons h).2], rfl⟩
    · obtain ⟨rfl, rfl⟩ := hlogged hu
      exact .inr ⟨hu, popAndLog_of_outfifo_cons h⟩
  · exact absurd hw' (hx w)
  · exact absurd hb (he b)
  · exact absurd hp hno
  · exact absurd hw' (hw off v)
  · exact absurd hr' hr

end Sys2Proof.Machine

namespace Sys2Proof.Proofs

open Sys2Proof.Machine

/-- Settles O58: the stream is kept step by step, and extended by what an execute step leaves in EMIT. -/
theorem outputStreamConserved : Obligations.OutputStreamConserved :=
  ⟨fun _ _ => step_stream, fun _ _ _ h => h.execute_stream⟩

/-- Settles O47, by induction on OUTLEVEL. -/
theorem fifoReadsBackInOrder : Obligations.FifoReadsBackInOrder := fun _ _ => outReads_outLevel _ rfl

/-- Settles O60: the place and the record after a read, the place after any other step, and the blocks of a record. -/
theorem loggedBlocksRunFromFirstToLast : Obligations.LoggedBlocksRunFromFirstToLast := by
  refine ⟨fun s t b bs rest ho hp hs => ?read, fun s t hs => ⟨fun hc => ?clears, step_readPlace hs⟩,
    fun record blocks h => splitBlocks_append (splitBlocks_blocks h) record none,
    fun record tail blocks ht h => splitBlocks_append (splitBlocks_gap_blocks ht h) record none, by decide, by decide⟩
  case clears =>
    obtain ⟨_, rfl⟩ := step_of_clears hs hc
    rfl
  case read =>
    have hlast : decide (bs = []) = bs.isEmpty := by cases bs <;> rfl
    rcases step_pop ho hp hs with ⟨hu, hplace, hlog⟩ | ⟨hu, hplace, hlog⟩ <;>
      rw [hplace, hlog, BlockPlace.after_eq_first, BlockPlace.after_eq_next, hlast]
    · simp [hu]
    · simp [hu]

end Sys2Proof.Proofs
end

section
/-! The loop of `run` (spec/30_encoding.md R107) under the interleaving where `sched` fixes nothing (log 1): a measure that every
step of it lowers, so that it ends with everything logged. -/

namespace Sys2Proof.Machine

/-! ### The loop and its measure -/

/-- The program is at a point of the loop of `run` with no command waiting, and the interleaving is not fixed. -/
structure State.Draining (s : State) (st : HostStmt) : Prop where
  inv : s.Inv
  pending : s.pending = none
  sched : s.sched = []
  prog : s.prog = [st]
  loop : st = .runPop ∨ st = .runStatus ∨ st = .runLevel

/-- How far a point of the loop is from the next read of a byte, or from the end where no byte is left. -/
def loopRank (noneLeft : Bool) : HostStmt → Nat
  | .runPop => if noneLeft then 3 else 1
  | .runStatus => if noneLeft then 2 else 3
  | .runLevel => if noneLeft then 1 else 2
  | .bus _ => 0
  | .wait => 0
  | .drain => 0
  | .reset => 0

/-- What the loop has still to do: bytes to read, blocks to emit, and the rank of its point. -/
def State.toDrain (s : State) (st : HostStmt) : Nat :=
  4 * s.unread.length + s.emit.length + loopRank s.unread.isEmpty st

theorem toDrain_goOn (s : State) (next : List HostStmt) (st : HostStmt) : (s.goOn next).toDrain st = s.toDrain st := rfl

theorem toDrain_lt {s : State} {st st' : HostStmt} (h : loopRank s.unread.isEmpty st' < loopRank s.unread.isEmpty st) :
    s.toDrain st' < s.toDrain st :=
  Nat.add_lt_add_left h _

/-! ### Runs of the machine -/

/-- A run of one step more begins with that step. -/
theorem run_succ {s t : State} (hs : step s = .next t) (k : Nat) :
    Host.Core.run Sys2Proof.core (k + 1) s = Host.Core.run Sys2Proof.core k t := by
  have hcore : Sys2Proof.core.step s = .next t := hs
  simp only [Host.Core.run, hcore]

/-- At the end of a run the stream is the record (R303). -/
theorem stream_of_ended {s : State} (h : s.ended = true) : s.stream = s.log := by
  simp only [State.ended, Bool.and_eq_true, Bool.not_eq_true', List.isEmpty_iff, busy_false_iff] at h
  obtain ⟨⟨_, _, hemit⟩, ho⟩ := h
  rw [State.stream, ho, hemit]
  exact List.append_nil _

/-! ### One step of the loop -/

namespace State.Draining

variable {s : State} {st : HostStmt}

theorem not_resets (h : s.Draining st) : ¬ s.resets := by
  have hturn : s.nextAgent ≠ .reset := by
    rw [State.nextAgent, h.sched]
    dsimp only
    split <;> decide
  rintro (hr | ⟨_, hr⟩)
  · exact hturn hr
  · rw [h.prog] at hr
    rcases h.loop with rfl | rfl | rfl <;> cases hr

theorem not_hostPopsUnlogged (h : s.Draining st) : ¬ s.hostPopsUnlogged := by
  rintro ⟨_, hu⟩
  rw [h.prog] at hu
  rcases h.loop with rfl | rfl | rfl <;> cases hu

theorem step_stream (h : s.Draining st) {t : State} (hs : step s = .next t) : t.stream = s.stream :=
  Machine.step_stream hs (fun _ hw => by cases h.pending.symm.trans hw.2) h.not_resets h.not_hostPopsUnlogged

/-- A step that keeps PENDING empty and stays in the loop is a step of the loop. -/
theorem next (h : s.Draining st) {t : State} {st' : HostStmt} (hs : step s = .next t) (hp : t.pending = none)
    (hsched : t.sched = []) (hprog : t.prog = [st']) (hloop : st' = .runPop ∨ st' = .runStatus ∨ st' = .runLevel) :
    t.Draining st' := ⟨h.inv.step hs, hp, hsched, hprog, hloop⟩

/-- Where the engine has no step, OUTFIFO is not empty or nothing is left (R226, R229). -/
theorem unread_nil (h : s.Draining st) (hoff : s.engineEnabled = false) (ho : s.outfifo = []) :
    s.emit = [] ∧ s.unread = [] := by
  have hemit : s.emit = [] := by
    by_contra hne
    obtain ⟨b, rest, he⟩ := List.exists_cons_of_ne_nil hne
    have hfits := h.inv.fits_of_outfifo_nil (b := b) (by simp [he]) ho
    rw [engineEnabled_of_emit h.pending he] at hoff
    exact absurd (hfits.symm.trans hoff) (by decide)
  exact ⟨hemit, by rw [State.unread, ho, hemit]; rfl⟩

theorem unread_isEmpty_iff (h : s.Draining st) (hoff : s.engineEnabled = false) :
    s.unread.isEmpty = true ↔ s.outfifo = [] := by
  refine ⟨fun hnil => ?_, fun ho => List.isEmpty_iff.2 (h.unread_nil hoff ho).2⟩
  obtain ⟨htags, _⟩ := List.append_eq_nil_iff.1 (List.isEmpty_iff.1 hnil)
  refine List.eq_nil_iff_forall_not_mem.2 fun b hb => h.inv.outfifo_ne_nil b hb ?_
  have := List.flatMap_eq_nil_iff.1 htags b hb
  rw [← List.length_eq_zero_iff, tagBlock_length] at this
  exact List.length_eq_zero_iff.1 this

/-- Where the engine has no step, the host moves (log 1). -/
theorem step_eq_hostStep (h : s.Draining st) (hoff : s.engineEnabled = false) : step s = hostStep s := by
  have hturn : s.nextAgent = .host := by rw [State.nextAgent, h.sched]; simp [hoff]
  have hspend : s.spendTurn = s := by
    have := h.sched
    cases s
    simp_all [State.spendTurn]
  rw [step, hturn, hspend]

/-- An emission step of the loop. -/
theorem emission_step (h : s.Draining st) (hon : s.engineEnabled = true) :
    ∃ t, step s = .next t ∧ t.Draining st ∧ t.toDrain st < s.toDrain st := by
  obtain ⟨b, rest, hp, he, hf⟩ := ((engineEnabled_iff s).1 hon).resolve_left (fun hne => hne h.pending)
  have hturn : s.nextAgent = .engine := by rw [State.nextAgent, h.sched]; simp [hon]
  have hs := step_of_emits ⟨hturn, hp, by rw [he]; rfl, hf⟩ he
  refine ⟨_, hs, h.next hs hp ?_ h.prog h.loop, ?_⟩
  · rw [State.emitHead_sched, State.spendTurn_sched, h.sched]
    rfl
  · have hunread : (s.spendTurn.emitHead b rest).unread = s.unread := emitHead_unread (s := s.spendTurn) he
    simp only [State.toDrain, hunread, State.emitHead_emit, he, List.length_cons]
    omega

/-- The read of the loop: a byte is taken, or nothing is left. -/
theorem pop_step (h : s.Draining .runPop) (hoff : s.engineEnabled = false) :
    ∃ t, step s = .next t ∧ t.Draining .runStatus ∧ t.toDrain .runStatus < s.toDrain .runPop := by
  have hs : step s = .next (s.popAndLog.goOn [.runStatus]) := by
    rw [h.step_eq_hostStep hoff, hostStep, h.prog]
  have hnext : (s.popAndLog.goOn [.runStatus]).Draining .runStatus := by
    refine h.next hs ?_ ?_ rfl (.inr (.inl rfl)) <;> rw [popAndLog_eq]
    · exact h.pending
    · exact h.sched
  refine ⟨_, hs, hnext, ?_⟩
  rw [toDrain_goOn]
  rcases popAndLog_cases s with ⟨hpop, hkept⟩ | ⟨b, last, rest, hpop, hkept⟩ <;> rw [hkept]
  · have ho : s.outfifo = [] := by
      by_contra hne
      obtain ⟨c, cs, ho⟩ := List.exists_cons_of_ne_nil hne
      exact h.inv.outfifo_ne_nil c (by simp [ho]) (popFifo_none hpop c (by simp [ho]))
    obtain ⟨hemit, hunread⟩ := h.unread_nil hoff ho
    exact toDrain_lt (by rw [hunread]; decide)
  · have htags := (popFifo_some hpop).1
    have hrank (e : Bool) : loopRank e .runStatus ≤ 3 := by cases e <;> decide
    have hmore := hrank (rest.flatMap tagBlock ++ s.emit.flatMap tagBlock).isEmpty
    simp only [State.toDrain, State.unread, htags, List.cons_append, List.length_cons, List.isEmpty_cons]
    simp only [loopRank] at hmore ⊢
    omega

/-- The loop's read of STATUS. -/
theorem status_step (h : s.Draining .runStatus) (hoff : s.engineEnabled = false) :
    ∃ t st, step s = .next t ∧ t.Draining st ∧ t.toDrain st < s.toDrain .runStatus := by
  have hs : step s = .next (s.goOn (if s.busy then [.runPop] else [.runLevel])) := by
    rw [h.step_eq_hostStep hoff, hostStep, h.prog]
    dsimp only
    rw [afterStatus, show s.readReg .status = s.statusWord from rfl, statusWord_getLsbD_zero]
  cases hb : s.busy
  case false =>
    refine ⟨_, .runLevel, hs, h.next hs h.pending h.sched (by simp [hb]) (.inr (.inr rfl)), ?_⟩
    rw [toDrain_goOn]
    exact toDrain_lt (by cases s.unread.isEmpty <;> decide)
  case true =>
    refine ⟨_, .runPop, hs, h.next hs h.pending h.sched (by simp [hb]) (.inl rfl), ?_⟩
    have hleft : s.unread.isEmpty = false := by
      by_contra he
      have ho := (h.unread_isEmpty_iff hoff).1 (by simpa using he)
      have hidle := (busy_false_iff s).2 ⟨h.pending, (h.unread_nil hoff ho).1⟩
      exact absurd (hb.symm.trans hidle) (by decide)
    rw [toDrain_goOn]
    exact toDrain_lt (by rw [hleft]; decide)

/-- The loop's read of OUTLEVEL: the end of the run, or the loop again. -/
theorem level_step (h : s.Draining .runLevel) (hoff : s.engineEnabled = false) :
    ∃ t, step s = .next t ∧
      (t.ended = true ∨ ∃ st, t.Draining st ∧ t.toDrain st < s.toDrain .runLevel) := by
  have hs : step s = .next (s.goOn (if s.readReg .outlevel = 0 then [] else [.runPop])) := by
    rw [h.step_eq_hostStep hoff, hostStep, h.prog]
  have hzero : s.readReg .outlevel = 0 ↔ s.outfifo = [] := by
    have hlevel : (s.readReg .outlevel).toNat = s.outLevel := toNat_ofNat_word h.inv.outLevel_lt
    have hblocks := h.inv.outfifo_length_le
    rw [← BitVec.toNat_inj, hlevel]
    constructor
    · intro h0
      exact List.length_eq_zero_iff.1 (Nat.le_zero.1 (hblocks.trans_eq h0))
    · intro ho
      rw [State.outLevel, ho]
      rfl
  refine ⟨_, hs, ?_⟩
  by_cases ho : s.outfifo = []
  · obtain ⟨hemit, _⟩ := h.unread_nil hoff ho
    have hidle : s.busy = false := (busy_false_iff s).2 ⟨h.pending, hemit⟩
    rw [if_pos (hzero.2 ho)]
    have hkept : (s.goOn []).busy = s.busy := busy_congr rfl rfl
    exact .inl (by simp [State.ended, hkept, hidle, ho])
  · have hleft : s.unread.isEmpty = false := by
      by_contra he
      exact ho ((h.unread_isEmpty_iff hoff).1 (by simpa using he))
    rw [if_neg (mt hzero.1 ho)] at hs ⊢
    refine .inr ⟨.runPop, h.next hs h.pending h.sched rfl (.inl rfl), ?_⟩
    rw [toDrain_goOn]
    exact toDrain_lt (by rw [hleft]; decide)

/-- Every step of the loop ends the run or leaves less to do. -/
theorem progress (h : s.Draining st) :
    ∃ t, step s = .next t ∧ (t.ended = true ∨ ∃ st', t.Draining st' ∧ t.toDrain st' < s.toDrain st) := by
  cases hon : s.engineEnabled
  case true =>
    obtain ⟨t, hs, ht, hless⟩ := h.emission_step hon
    exact ⟨t, hs, .inr ⟨st, ht, hless⟩⟩
  case false =>
    rcases h.loop with rfl | rfl | rfl
    · obtain ⟨t, hs, ht, hless⟩ := h.pop_step hon
      exact ⟨t, hs, .inr ⟨_, ht, hless⟩⟩
    · obtain ⟨t, st, hs, ht, hless⟩ := h.status_step hon
      exact ⟨t, hs, .inr ⟨st, ht, hless⟩⟩
    · exact h.level_step hon

/-- The loop reaches the end of the run, with the stream as it was (R303). -/
theorem reaches_end (h : s.Draining st) :
    ∃ k t, Host.Core.run Sys2Proof.core k s = .next t ∧ t.ended = true ∧ t.stream = s.stream := by
  induction hn : s.toDrain st using Nat.strong_induction_on generalizing s st with
  | h n ih =>
    obtain ⟨t, hs, hcase⟩ := h.progress
    have hstream := h.step_stream hs
    rcases hcase with hend | ⟨st', ht, hless⟩
    · exact ⟨1, t, run_succ hs 0, hend, hstream⟩
    · obtain ⟨k, u, hrun, hend, hu⟩ := ih _ (hn ▸ hless) ht rfl
      exact ⟨k + 1, u, (run_succ hs k).trans hrun, hend, hu.trans hstream⟩

end State.Draining

end Sys2Proof.Machine

namespace Sys2Proof.Proofs

open Sys2Proof.Machine

/-- Settles O59: the loop ends by its measure, and at the end the stream, which no step of it changes, is the record. -/
theorem drainLoopEndsWithEverythingLogged : Obligations.DrainLoopEndsWithEverythingLogged := by
  intro s h hp hsched hprog
  obtain ⟨k, t, hrun, hend, hstream⟩ := State.Draining.reaches_end ⟨h, hp, hsched, hprog, .inl rfl⟩
  have hlog : t.log = s.stream := (stream_of_ended hend).symm.trans hstream
  refine ⟨k, t, hrun, hend, hlog, fun hnil hfirst => ?_⟩
  show splitBlocks none t.log = _
  rw [hlog, State.stream, hnil, hfirst, List.nil_append, ← List.flatMap_append]
  exact splitBlocks_blocks (List.forall_mem_append.2 ⟨h.outfifo_ne_nil, h.emit_ne_nil⟩) none

end Sys2Proof.Proofs
end

section
/-! Steps and runs of the engine as meanings of instructions: the WIRE rows (log 6), the decoded instruction of a step, JOB
against the four commands it stands for (spec/43_control.md R221, R224, R226, R230), and the first JOB after reset (R291). -/

namespace Sys2Proof.Machine

open Sys2Proof.Claims

/-! ### The WIRE rows -/

/-- The header and the chunks run as the emission step of their block (log 6). -/
theorem exec_emittedRow {i : Instr}
    (hi : (∃ L, i = .wireHeader L) ∨ (∃ x p, i = .wireChunk x p) ∨ ∃ x p, i = .wireChunkLast x p) (s : State) :
    exec i s = .next (s.emissionOf (encode i)) := by
  rcases hi with ⟨L, rfl⟩ | ⟨x, p, rfl⟩ | ⟨x, p, rfl⟩
  · exact exec_wireHeader L s
  · exact exec_wireChunk x p s
  · exact exec_wireChunkLast x p s

theorem emissionOf_head {s : State} {b : Block} {rest : List Block} (hp : s.pending = none) (he : s.emit = b :: rest)
    (hf : s.fits b = true) : s.emissionOf b = s.emitHead b rest := by
  rw [State.emissionOf, he, List.head?_cons, if_pos rfl, State.emission, hp, he]
  exact if_pos hf

/-- The emission of a row's block as one update of the state, where there is room for the block (R226). -/
theorem emissionOf_head_eq {s : State} {b : Block} {rest : List Block} (hp : s.pending = none)
    (he : s.emit = b :: rest) (hroom : s.outLevel + b.length ≤ s.cfg.outCap) :
    s.emissionOf b = { s with
      outfifo := s.outfifo ++ [b], emit := rest, done := s.done || decide (rest = []) } := by
  rw [emissionOf_head hp he (decide_eq_true hroom), emitHead_eq]

/-- A row whose block is not the one the engine emits next changes nothing (log 6). -/
theorem emissionOf_of_not_emits {s : State} {b : Block}
    (h : s.pending ≠ none ∨ s.emit.head? ≠ some b ∨ s.cfg.outCap < s.outLevel + b.length) : s.emissionOf b = s := by
  rcases emissionOf_cases b s with ⟨rest, hp, he, hf, _⟩ | hs
  · rcases h with h | h | h
    · exact absurd hp h
    · exact absurd (by rw [he]; rfl) h
    · exact absurd (of_decide_eq_true hf) (Nat.not_le.2 h)
  · exact hs

theorem appendBody_appendBody (s : State) (b c : Block) : (s.appendBody b).appendBody c = s.appendBody (b ++ c) := by
  rw [State.appendBody, State.appendBody, State.appendBody, List.append_assoc]

/-- The five command blocks in order append the body of their raster (R138). -/
theorem exec_commandBlocks {s a b c d e : State} {w h : Word} {bm : List Byte} (ha : exec .wireStartJob s = .next a)
    (hb : exec (.wirePrintData w h bm) a = .next b) (hc : exec .wireFormFeed b = .next c)
    (hd : exec .wireStatus c = .next d) (he : exec .wireEnd d = .next e) : e = s.appendBody (Wire.body w h bm) := by
  cases ha
  cases hb
  cases hc
  cases hd
  cases he
  simp only [appendBody_appendBody, Wire.body]

/-! ### The host's statements -/

theorem step_of_host {s : State} (h : s.nextAgent = .host) : step s = hostStep s.spendTurn := by
  rw [step, h]

/-- A CMD write of 0 runs NOP at once (R220, R222). -/
theorem step_of_nop_write {s : State} (h : s.hostWrites 0x00 0) :
    step s = exec .nop { s with sched := s.sched.tail, prog := s.prog.tail } := by
  obtain ⟨hturn, hhead⟩ := h
  obtain ⟨rest, hprog⟩ := List.head?_eq_some_iff.1 hhead
  rw [step_of_host hturn, hostStep_of_bus (s := s.spendTurn) hprog, hprog]
  exact busStep_write (s := s.spendTurn) (by decide) (by decide) 0 rest

/-! ### One command after another -/

theorem engineStep_accept {s : State} (w : Word) (hb : s.busy = false) :
    engineStep (s.accept w) = exec (decodeCmd w) { s with done := false } := by
  have hp := ((busy_false_iff s).1 hb).1
  rw [engineStep_of_pending (s := s.accept w) rfl, State.accept]
  simp only [← hp]

/-- An accepted command with room for its blocks: its execute step, then one emission step for each block (R221, R226). -/
theorem engineSteps_accept {s t : State} {w : Word} {bs : List Block} (hb : s.busy = false)
    (hx : exec (decodeCmd w) { s with done := false } = .next t) (hp : t.pending = none) (hem : t.emit = bs)
    (hroom : t.outLevel + (bs.map List.length).sum ≤ t.cfg.outCap) :
    engineSteps (bs.length + 1) (s.accept w) =
      .next { t with outfifo := t.outfifo ++ bs, emit := [], done := t.done || decide (bs ≠ []) } := by
  rw [engineSteps_succ ((engineStep_accept w hb).trans hx), engineSteps_emit bs hp hem hroom]

/-- After those steps the command has finished, and the engine has none (R229). -/
theorem issueAndFinish_eq {s t : State} {w : Word} {bs : List Block} (hb : s.busy = false) (he : s.err = false)
    (hw : w ≠ 0) (hx : exec (decodeCmd w) { s with done := false } = .next t) (hp : t.pending = none) (hem : t.emit = bs)
    (hcount : bs.length ≤ 299) (hroom : t.outLevel + (bs.map List.length).sum ≤ t.cfg.outCap) :
    issueAndFinish w s =
      .next { t with outfifo := t.outfifo ++ bs, emit := [], done := t.done || decide (bs ≠ []) } := by
  have hsteps : 300 = bs.length + 1 + (299 - bs.length) := by omega
  rw [issueAndFinish, issue_accept hb hw (by simp [he]), hsteps]
  dsimp only
  rw [engineSteps_add _ (engineSteps_accept hb hx hp hem hroom)]
  exact engineSteps_idle _ hp rfl

theorem issueAll_cons {s t : State} {w : Word} (h : issueAndFinish w s = .next t) (ws : List Word) :
    issueAll (w :: ws) s = issueAll ws t := by
  rw [issueAll, h]

/-! ### What each command leaves when it has finished, its output in OUTFIFO -/

def State.afterPack (s : State) : State := { s with bmpbuf := Wire.pack s.pixbuf, emit := [], done := true }

def State.afterBuild (s : State) : State := { s with
  bodybuf := Wire.body s.width s.height s.bmpbuf
  bodylen := BitVec.ofNat 32 (24 + s.bmpbuf.length)
  emit := []
  done := true }

def State.afterHeader (s : State) : State := { s with
  csum := Wire.checksum s.bodylen
  outfifo := s.outfifo ++ [Wire.header s.bodylen]
  emit := []
  done := true }

def State.afterFrame (s : State) : State := { s with
  chunkcnt := BitVec.ofNat 9 (Wire.nchunks s.bodybuf.length)
  outfifo := s.outfifo ++ Wire.chunks s.bodybuf
  emit := []
  done := true }

/-- JOB's effect with its blocks in OUTFIFO (R224, R226). -/
def State.afterJob (s : State) (bm B : List Byte) : State := { jobEffect bm B s with
  outfifo := s.outfifo ++ Wire.header (BitVec.ofNat 32 B.length) :: Wire.chunks B
  emit := []
  done := true }

section Idle

variable {s : State} (hb : s.busy = false) (he : s.err = false)
include hb he

theorem finish_pack (hcap : s.outLevel ≤ s.cfg.outCap) : issueAndFinish 2 s = .next s.afterPack := by
  obtain ⟨hp, hem⟩ := (busy_false_iff s).1 hb
  rw [issueAndFinish_eq (w := 2) hb he (by decide) (exec_pack_eq _) hp hem (by decide) hcap]
  simp [State.afterPack, hem]

theorem finish_build (hcap : s.outLevel ≤ s.cfg.outCap) (hdim : s.width.toNat * s.height.toNat = 8 * s.bmpbuf.length)
    (hlen : 24 + s.bmpbuf.length ≤ 2 ^ 32 - 1) : issueAndFinish 3 s = .next s.afterBuild := by
  obtain ⟨hp, hem⟩ := (busy_false_iff s).1 hb
  have hx := exec_build_success (s := { s with done := false }) hdim hlen
  rw [issueAndFinish_eq (w := 3) hb he (by decide) hx hp hem (by decide) hcap]
  simp [State.afterBuild, hem]

theorem finish_header (hroom : s.outLevel + 9 ≤ s.cfg.outCap) : issueAndFinish 4 s = .next s.afterHeader := by
  obtain ⟨hp, _⟩ := (busy_false_iff s).1 hb
  have hfits : s.outLevel + ([Wire.header s.bodylen].map List.length).sum ≤ s.cfg.outCap := by simpa using hroom
  rw [issueAndFinish_eq (w := 4) hb he (by decide) (exec_header_eq _) hp rfl (by simp) hfits]
  simp [State.afterHeader]

theorem finish_frame (hB : s.bodybuf.length ≤ 128000)
    (hroom : s.outLevel + (s.bodybuf.length + Wire.nchunks s.bodybuf.length + 2) ≤ s.cfg.outCap) :
    issueAndFinish 5 s = .next s.afterFrame := by
  obtain ⟨hp, _⟩ := (busy_false_iff s).1 hb
  have hx := exec_frame_success (s := { s with done := false }) hB
  have hcount : (Wire.chunks s.bodybuf).length ≤ 299 := by
    have := Wire.nchunks_le_maxChunks hB
    rw [Wire.chunks_length]
    omega
  rw [← Wire.chunks_length_sum] at hroom
  rw [issueAndFinish_eq (w := 5) hb he (by decide) hx hp rfl hcount hroom]
  simp [State.afterFrame, Wire.chunks_ne_nil]

theorem finish_job {B : List Byte} (hB : B = Wire.body s.width s.height (Wire.pack s.pixbuf))
    (hdim : s.width.toNat * s.height.toNat = 8 * (Wire.pack s.pixbuf).length) (hlen : B.length ≤ 128000)
    (hroom : s.outLevel + (9 + (B.length + Wire.nchunks B.length + 2)) ≤ s.cfg.outCap) :
    issueAndFinish 6 s = .next (s.afterJob (Wire.pack s.pixbuf) B) := by
  obtain ⟨hp, _⟩ := (busy_false_iff s).1 hb
  have hx := exec_job_success (s := { s with done := false }) hdim (by rwa [hB, Wire.body_length] at hlen)
  rw [← hB] at hx
  have hcount : (Wire.header (BitVec.ofNat 32 B.length) :: Wire.chunks B).length ≤ 299 := by
    have := Wire.nchunks_le_maxChunks hlen
    rw [List.length_cons, Wire.chunks_length]
    omega
  rw [← job_blocks_length_sum (BitVec.ofNat 32 B.length)] at hroom
  rw [issueAndFinish_eq (w := 6) hb he (by decide) hx hp rfl hcount hroom]
  simp [State.afterJob, jobEffect_eq]

end Idle

/-- The four commands one after another have JOB's effect (R230). -/
theorem afterCommands_eq_afterJob (s : State) :
    s.afterPack.afterBuild.afterHeader.afterFrame =
      s.afterJob (Wire.pack s.pixbuf) (Wire.body s.width s.height (Wire.pack s.pixbuf)) := by
  simp only [State.afterPack, State.afterBuild, State.afterHeader, State.afterFrame, State.afterJob, jobEffect_eq,
    Wire.body_length, List.append_assoc, List.singleton_append]

/-! ### The first JOB after reset -/

/-- The header of L = 24 and the one chunk of a body with an empty bitmap (R291). -/
def emptyJobBlocks : List Block :=
  [[0xFF, 0xF0, 0x12, 0x34, 0x18, 0x00, 0x00, 0x00, 0x4D],
    [0x00, 0x1B, 0x73, 0x9A, 0x02, 0x00, 0x00, 0x1B, 0x44, 0x01, 0x02, 0x00, 0x00, 0x00, 0x00, 0x00, 0x00, 0x00, 0x00,
     0x1B, 0x45, 0x1B, 0x41, 0x1B, 0x51, 0x12, 0x34]]

/-- STATUS of an idle PEE that has finished its command, with no error and no write ignored (R23). -/
theorem status_of_done {s : State} (hb : s.busy = false) (hd : s.done = true) (he : s.err = false) (ho : s.ovr = false)
    (hcode : s.errcode = 0) (hop : s.errop = 0) : s.readValue 0x04 = 0x00000002 := by
  show s.statusWord = 2
  simp [State.statusWord, hb, hd, he, ho, hcode, hop]

theorem emptyJob_checks : (0 : Word).toNat * (0 : Word).toNat = 8 * (Wire.pack []).length ∧
    24 + (Wire.pack []).length ≤ 128000 := by
  decide

theorem emptyJob_bodylen : BitVec.ofNat 32 (Wire.body 0 0 (Wire.pack [])).length = 24 := by
  decide

theorem emptyJob_emit : Wire.header (BitVec.ofNat 32 (Wire.body 0 0 (Wire.pack [])).length) ::
    Wire.chunks (Wire.body 0 0 (Wire.pack [])) = emptyJobBlocks := by
  decide

end Sys2Proof.Machine

namespace Sys2Proof.Proofs

open Sys2Proof.Machine Sys2Proof.Claims

/-- Settles O32: each row is the emission of its block, which the engine does or does not emit next. -/
theorem wireBlocksAreEmitted : Obligations.WireBlocksAreEmitted := by
  refine ⟨fun L rest s hp he hroom => ?header, fun i p rest s hp he hroom => ?chunk,
    fun i p rest s hp he hroom => ?chunkLast, fun i s hi hno => ?unchanged⟩
  case header =>
    rw [exec_wireHeader]
    exact congrArg Host.Outcome.next (emissionOf_head_eq (b := Wire.header L) hp he (by rwa [Wire.header_length]))
  case chunk =>
    have hlen : ([i] ++ p).length = 1 + p.length := List.length_append
    rw [exec_wireChunk]
    exact congrArg Host.Outcome.next (emissionOf_head_eq (b := [i] ++ p) hp he (by rwa [hlen]))
  case chunkLast =>
    have hlen : ([i] ++ p ++ [0x12, 0x34]).length = 1 + p.length + 2 := by simp; omega
    rw [exec_wireChunkLast]
    exact congrArg Host.Outcome.next (emissionOf_head_eq (b := [i] ++ p ++ [0x12, 0x34]) hp he (by rwa [hlen]))
  case unchanged => rw [exec_emittedRow hi, emissionOf_of_not_emits hno]

/-- Settles O33: each row appends its block, and the five together are the body that BUILD writes. -/
theorem wireCommandBlocksBuildTheBody : Obligations.WireCommandBlocksBuildTheBody := by
  refine ⟨fun _ => rfl, fun _ _ _ _ => rfl, fun _ => rfl, fun _ => rfl, fun _ => rfl,
    fun s a b c d e t hnil ha hb hc hd he ht hok => ?_⟩
  obtain rfl := exec_commandBlocks ha hb hc hd he
  rcases execBuild_cases s with ⟨_, _, hbuild⟩ | ⟨_, _, hbuild⟩ | ⟨_, hbuild⟩ <;> cases ht.symm.trans hbuild
  · exact ⟨(congrArg (· ++ _) hnil).trans (List.nil_append _), rfl⟩
  · cases hok
  · cases hok

/-- Settles O48: the engine's execute step, the CMD write of 0, the emission step, the placed word and the reset statement. -/
theorem stepRunsTheDecodedInstruction : Obligations.StepRunsTheDecodedInstruction := by
  refine ⟨fun s w h => step_of_executes h, fun s => step_of_nop_write, fun s i hi h => ?emission, fun s w hw => ?word,
    fun s => step_of_nop_write (s := s.withFetchWord 32 0) ⟨rfl, rfl⟩, fun s rest hturn hprog => ⟨_, exec_clear s, ?reset⟩⟩
  case emission =>
    have ⟨_, hp, hhead, hf⟩ := h
    obtain ⟨rest, he⟩ := List.head?_eq_some_iff.1 hhead
    rw [step_of_emits h he, exec_emittedRow hi]
    exact congrArg Host.Outcome.next (emissionOf_head (s := s.spendTurn) hp he hf).symm
  case word =>
    have hplaced : s.withFetchWord 32 w.toNat = { s with pending := some w, sched := .engine :: s.sched } := by
      rw [State.withFetchWord, if_pos rfl, BitVec.ofNat_toNat, BitVec.setWidth_eq, State.placeCommand, if_neg hw]
    rw [hplaced]
    exact step_of_executes ⟨rfl, rfl⟩
  case reset =>
    rw [step_of_host hturn, hostStep, show s.spendTurn.prog = _ from hprog]
    rfl

/-- Settles O30: JOB and the four commands finish in the same state, command by command. -/
theorem jobEqualsUnitCommands : Obligations.JobEqualsUnitCommands := by
  intro s hb he hdim hlen hroom
  have hp := ((busy_false_iff s).1 hb).1
  have idle {t : State} (htp : t.pending = none) (hte : t.emit = []) : t.busy = false :=
    (busy_false_iff t).2 ⟨htp, hte⟩
  have harea := (dimOK_iff _ _ _).1 hdim
  have hBlen := Wire.body_length s.width s.height (Wire.pack s.pixbuf)
  have hheaderRoom : s.outLevel + 9 ≤ s.cfg.outCap := by omega
  have hcap : s.outLevel ≤ s.cfg.outCap := by omega
  have hlevel : s.afterPack.afterBuild.afterHeader.outLevel = s.outLevel + 9 := by
    simp [State.outLevel, State.afterHeader, State.afterBuild, State.afterPack]
  have hlenOK : 24 + (Wire.pack s.pixbuf).length ≤ 2 ^ 32 - 1 := by omega
  rw [← hBlen] at hlen hroom
  have hjob := finish_job hb he rfl harea hlen (by omega)
  have hpack := finish_pack hb he hcap
  have hbuild : issueAndFinish 3 s.afterPack = .next s.afterPack.afterBuild :=
    finish_build (idle hp rfl) he hcap harea hlenOK
  have hheader : issueAndFinish 4 s.afterPack.afterBuild = .next s.afterPack.afterBuild.afterHeader :=
    finish_header (idle hp rfl) he hheaderRoom
  have hframe : issueAndFinish 5 s.afterPack.afterBuild.afterHeader = .next s.afterPack.afterBuild.afterHeader.afterFrame :=
    finish_frame (idle hp rfl) he hlen (by rwa [hlevel, ← Nat.add_assoc, ← Nat.add_assoc])
  refine ⟨_, (issueAll_cons hjob []).trans rfl, ?units, by rw [State.afterJob, hBlen]⟩
  case units =>
    rw [issueAll_cons hpack, issueAll_cons hbuild, issueAll_cons hheader, issueAll_cons hframe, issueAll,
      afterCommands_eq_afterJob]

/-- Settles O16: the first JOB's blocks are those of an empty bitmap, and the smallest OUTFIFO has room for them. -/
theorem afterResetIdleAndJobSucceeds : Obligations.AfterResetIdleAndJobSucceeds := by
  rintro c s ⟨_, _, hcap, _⟩ rfl
  have hroom : 0 + (emptyJobBlocks.map List.length).sum ≤ c.outCap := by
    have : (emptyJobBlocks.map List.length).sum = 36 := by decide
    omega
  have hx := exec_job_success (s := { State.reset with cfg := c, done := false }) emptyJob_checks.1 emptyJob_checks.2
  have hsteps := engineSteps_accept (s := { State.reset with cfg := c }) (w := 6) rfl hx rfl emptyJob_emit hroom
  refine ⟨clear_atReset { State.reset with cfg := c }, rfl, rfl, rfl, _, _,
    issue_accept rfl (by decide) (by simp [State.reset]), hsteps, ?bodylen, ?status, rfl⟩
  case bodylen => exact emptyJob_bodylen
  case status => exact status_of_done rfl (by simp [emptyJobBlocks]) rfl rfl rfl rfl

end Sys2Proof.Proofs
end
